-- ==== Sys2Proof/Word.lean ====
section
/-! DEFINITION. The word types of CHDV. `00_scope.md` R8: a byte is 8 bits and holds 0 to 255, always read as
unsigned; no value in CHDV is signed; a 16-bit value is made of two bytes; a string is a finite sequence of
ASCII characters compared exactly. -/

namespace Sys2Proof

/-- A byte (R8, R41): 8 bits, unsigned. -/
abbrev Byte := BitVec 8

/-- A 16-bit unsigned value (R20, R29, R63). -/
abbrev Half := BitVec 16

/-- An ASCII character (R8), by its code 0x00 to 0x7F. R8 gives no number; the range is the spec's own for title bytes
(R65, from general knowledge): assumption 5, PRESUMED, safe. -/
abbrev AsciiChar := Fin 0x80

/-- A string of the spec (R8, R56; `92_eei_decisions.md` D24): a finite sequence of ASCII characters, compared exactly,
character by character. Display names are such strings. -/
abbrev DisplayName := List AsciiChar

/-- A string the spec prints, as its characters. It is applied to ASCII text only (assumption 5). -/
def ascii (text : String) : DisplayName := text.toList.map fun c => Fin.ofNat 0x80 c.toNat

end Sys2Proof
end

