-- ==== Sys2Proof/Config.lean ====
section
/-! DEFINITION. The constants the source fixes (`00_scope.md` R6) and the parameters it leaves open (R7):
`TYPE_TABLE`, `LIC_TABLE` and `LIC_BOUND_MODE`. A `Config` is one legal choice of the three; what R110 says of every
type table is carried as proof, so an illegal table cannot be written down. The choice a real block was built with is
open (`92_eei_decisions.md` D10, D11, D12): `Config.chip` is made of three constants without a body. -/

namespace Sys2Proof

/-- `HDR_BASE` (R6): absolute offset of the first header byte. -/
abbrev hdrBase : Nat := 0x100

/-- `HDR_LEN` (R6): length of the header window. -/
abbrev hdrLen : Nat := 0x50

/-- `HDR_END` (R6): first offset after the header, which is the least legal image length. -/
abbrev hdrEnd : Nat := 0x150

/-- `CK_FIRST` (R6): the first byte summed by the checksum. -/
abbrev ckFirst : Nat := 0x134

/-- `CK_LAST` (R6): the last byte summed by the checksum, inclusive. -/
abbrev ckLast : Nat := 0x14C

/-- `CK_COUNT` (R6): the number of bytes summed. -/
abbrev ckCount : Nat := 25

/-- `TITLE_LEN` (R6): length of the title region. -/
abbrev titleLen : Nat := 0x10

/-- `TYPE_TABLE_LEN` (R6): number of entries of the cartridge type table. -/
abbrev typeTableLen : Nat := 0x22

/-- `UNKNOWN` (R6): the sentinel a lookup without an entry returns. -/
def unknownName : DisplayName := ascii "UNKNOWN"

/-- `ROMKB_BASE` (R6): ROM size in KB for ROM size code 0. -/
abbrev romKbBase : Nat := 32

/-- `LIC_BOUND_MODE` (R7, R114): `parity` is the reference's bound check of the licensee code by the TYPE table's
length, `fixed` the lookup over the licensee table's own domain. The spec leaves the choice open (D10). -/
inductive LicBoundMode where
  | parity
  | fixed
  deriving DecidableEq, Repr, Inhabited

/-- The configuration of a block (R7, R39): fixed when the block is built, no state of it. -/
structure Config where
  /-- `TYPE_TABLE` (R110): dense, one name for each index 0x00 to 0x21. -/
  typeRom : Vector DisplayName typeTableLen
  /-- `LIC_TABLE` (R113): sparse, the entries by rising code; a code that is not listed has no entry. -/
  licRom : List (Byte × DisplayName)
  /-- `LIC_BOUND_MODE` (R114). -/
  licBoundMode : LicBoundMode
  /-- R110: `TYPE_TABLE[0x00] = "ROM ONLY"`. -/
  typeRom_first : typeRom[0] = ascii "ROM ONLY"
  /-- R110: no entry of the type table is the sentinel. -/
  typeRom_named : typeRom.toList.all (· != unknownName) = true
  /-- The codes of the licensee table rise, so that one partial function has one list. -/
  licRom_rising : licRom.Pairwise (fun a b => a.1.toNat < b.1.toNat)
  deriving DecidableEq, Repr

/-- OPEN (D11): the strings behind the type table. No body: nothing can be proved of a value. -/
opaque Config.openTypeName : Nat → DisplayName

/-- OPEN (D12): the licensee table as a partial function. No body. -/
opaque Config.openLicName : Byte → Option DisplayName

/-- OPEN (D10): the licensee bound mode. No body. -/
opaque Config.openLicBoundMode : LicBoundMode

/-- Entry `i` of the open type table under the two facts R110 states: entry 0 is "ROM ONLY" and no entry is the
sentinel. Every table that meets them arises from some `openTypeName`; the placeholder text only stands where
`openTypeName` itself would be the sentinel. -/
def Config.openTypeEntry (i : Nat) : DisplayName :=
  if i = 0 then ascii "ROM ONLY"
  else if Config.openTypeName i = unknownName then ascii "reserved/unknown"
  else Config.openTypeName i

/-- All 256 codes, rising. -/
def allBytes : List Byte := (List.range 0x100).map (BitVec.ofNat 8)

/-- The configuration of the block at hand: open in everything R7 leaves open. -/
def Config.chip : Config where
  typeRom := ⟨((List.range typeTableLen).map Config.openTypeEntry).toArray, by simp⟩
  licRom := allBytes.filterMap fun c => (Config.openLicName c).map fun n => (c, n)
  licBoundMode := Config.openLicBoundMode
  typeRom_first := rfl
  typeRom_named := by
    simp only [Vector.toList, List.all_map, List.all_eq_true]
    intro i _
    simp only [Function.comp, bne_iff_ne, ne_eq]
    unfold Config.openTypeEntry
    by_cases h0 : i = 0
    · rw [if_pos h0]; decide
    · rw [if_neg h0]
      by_cases h1 : Config.openTypeName i = unknownName
      · rw [if_pos h1]; decide
      · rw [if_neg h1]; exact h1
  licRom_rising := by
    refine List.Pairwise.filterMap _ ?_ (R := fun a b : Byte => a.toNat < b.toNat) (by decide +kernel)
    intro a b hab x hx y hy
    simp only [Option.map_eq_some_iff] at hx hy
    obtain ⟨_, _, rfl⟩ := hx
    obtain ⟨_, _, rfl⟩ := hy
    exact hab

end Sys2Proof
end

