-- ==== Sys2Proof/Syntax.lean ====
section
/-! DEFINITION. What a host can write to CHDV: the operand types (`30_encoding.md` R67, `43_loader.md` R121), the raw
request on the command and operand ports, the 30 commands of format K (R68) and the header record of format H
(`40_decode.md` R91, `10_state.md` R17 to R29). -/

namespace Sys2Proof

/-- `Path` (R7, R14): the opaque file name. CHDV stores it and never looks inside. The string is only a carrier:
assumption 6, DESIGN CHOICE, safe. -/
structure Path where
  text : String
  deriving DecidableEq, Repr, Inhabited

/-- `Cause` (R7, R13): the opaque cause of an I/O fault. CHDV stores it and never looks inside (assumption 6). -/
structure Cause where
  text : String
  deriving DecidableEq, Repr, Inhabited

/-- `SRC` (R122): the outcome of the host's attempt to open and read the file. -/
inductive Src where
  /-- The whole file was read and stands on the image port. -/
  | ok
  /-- The file was absent. -/
  | notFound
  /-- Any other fault while opening or reading, with its cause. -/
  | ioFault (c : Cause)
  deriving DecidableEq, Repr

/-- A raw image (R41): a byte sequence of any length `N`, the first byte at address 0. -/
abbrev Image := List Byte

/-- A header window (R61, R75, R91): exactly 0x50 bytes (`HDR_LEN`). The length is part of the type, as R91 asks. -/
abbrev Window := Vector Byte 0x50

/-- The operand ports beside the command byte (R67). The image port's length `N` is the length of `img`
(`93_implementation_defined.md` U11). -/
structure Ports where
  path : Path
  src  : Src
  img  : Image
  arg  : Byte
  addr : Nat
  win  : Window
  deriving DecidableEq, Repr

/-- Operand ports with nothing on them: what an opcode-table word, which has no operand bits, is given. Assumption 9,
DESIGN CHOICE: the spec gives the ports no idle value. -/
def Ports.idle : Ports where
  path := ⟨""⟩
  src  := .ok
  img  := []
  arg  := 0
  addr := 0
  win  := Vector.replicate 0x50 0

/-- One request of the host (R67): a command byte and the operand ports. -/
structure Request where
  cmd   : Byte
  ports : Ports
  deriving DecidableEq, Repr

/-- The 30 commands (R68), one constructor per row of `opcode_table.json`, each with the operands its row names. -/
inductive Instr where
  /-- `CLEAR`, 0x00, R120. -/
  | clear
  /-- `LOAD(path, src, img)`, 0x01, R121. -/
  | load (path : Path) (src : Src) (img : Image)
  /-- `RD.STATUS`, 0x20, R137. -/
  | rdStatus
  /-- `RD.CAUSE`, 0x21, R138. -/
  | rdCause
  /-- `RD.FNAME`, 0x22, R139. -/
  | rdFname
  /-- `RD.IMGLEN`, 0x23, R140. -/
  | rdImglen
  /-- `RD.IMGB(addr)`, 0x24, R141. -/
  | rdImgb (addr : Nat)
  /-- `RD.ENTRY`, 0x25, R142. -/
  | rdEntry
  /-- `RD.LOGO`, 0x26, R143. -/
  | rdLogo
  /-- `RD.TITLE`, 0x27, R144. -/
  | rdTitle
  /-- `RD.NEWLIC`, 0x28, R145. -/
  | rdNewlic
  /-- `RD.SGB`, 0x29, R146. -/
  | rdSgb
  /-- `RD.CTYPE`, 0x2A, R147. -/
  | rdCtype
  /-- `RD.ROMSZ`, 0x2B, R148. -/
  | rdRomsz
  /-- `RD.RAMSZ`, 0x2C, R149. -/
  | rdRamsz
  /-- `RD.DEST`, 0x2D, R150. -/
  | rdDest
  /-- `RD.OLDLIC`, 0x2E, R151. -/
  | rdOldlic
  /-- `RD.VER`, 0x2F, R152. -/
  | rdVer
  /-- `RD.HCK`, 0x30, R153. -/
  | rdHck
  /-- `RD.GCK`, 0x31, R154. -/
  | rdGck
  /-- `RD.TYPENAME`, 0x32, R155. -/
  | rdTypename
  /-- `RD.LICNAME`, 0x33, R156. -/
  | rdLicname
  /-- `RD.ROMKB`, 0x34, R157. -/
  | rdRomkb
  /-- `RD.CKOK`, 0x35, R158. -/
  | rdCkok
  /-- `RD.SUMMARY`, 0x36, R159. -/
  | rdSummary
  /-- `U.DECODE(win)`, 0x40, R90. -/
  | uDecode (win : Window)
  /-- `U.VERIFY(img, arg)`, 0x41, R102. -/
  | uVerify (img : Image) (arg : Byte)
  /-- `U.TYPENAME(arg)`, 0x42, R112. -/
  | uTypename (arg : Byte)
  /-- `U.LICNAME(arg)`, 0x43, R115. -/
  | uLicname (arg : Byte)
  /-- `U.ROMKB(arg)`, 0x44, R117. -/
  | uRomkb (arg : Byte)
  deriving DecidableEq, Repr

/-- The header record (R91), and so the thirteen header field registers `H[..]` (R17 to R29): register `H[f]` is field
`f`. -/
structure HeaderRecord where
  /-- `H[ENTRY]` (R17), `entry_vector`. -/
  entry  : Vector Byte 4
  /-- `H[LOGO]` (R18), `logo_bitmap`. -/
  logo   : Vector Byte 0x30
  /-- `H[TITLE]` (R19), `title`: the trimmed sequence, 0 to 16 bytes; its length is `TLEN`. -/
  title  : List Byte
  /-- `H[NEWLIC]` (R20), `new_licensee_code`. -/
  newlic : Half
  /-- `H[SGB]` (R21), `sgb_flag`. -/
  sgb    : Byte
  /-- `H[CTYPE]` (R22), `cartridge_type_code`. -/
  ctype  : Byte
  /-- `H[ROMSZ]` (R23), `rom_size_code`. -/
  romsz  : Byte
  /-- `H[RAMSZ]` (R24), `ram_size_code`. -/
  ramsz  : Byte
  /-- `H[DEST]` (R25), `destination_code`. -/
  dest   : Byte
  /-- `H[OLDLIC]` (R26), `old_licensee_code`. -/
  oldlic : Byte
  /-- `H[VER]` (R27), `mask_rom_version`. -/
  ver    : Byte
  /-- `H[HCK]` (R28), `header_checksum`. -/
  hck    : Byte
  /-- `H[GCK]` (R29), `global_checksum`. -/
  gck    : Half
  deriving DecidableEq, Repr

end Sys2Proof
end

