-- ==== Sys2Proof/WellFormed.lean ====
section
/-! DEFINITION. Which requests and header records are well formed. Every term of `Instr` is well formed: the operand
types carry every check the spec makes on an operand (`40_decode.md` R91 and `93_implementation_defined.md` U16 put
the window's length in its type; R41, R122 and R67 admit every image, `SRC`, `ARG` and `ADDR`), so no check on `Instr`
is left to make. -/

namespace Sys2Proof

/-- The command bytes of the map (R68): 0x00 and 0x01, 0x20 to 0x36, 0x40 to 0x44. -/
def isCommandByte (b : Byte) : Bool :=
  b.toNat ≤ 0x01 || (0x20 ≤ b.toNat && b.toNat ≤ 0x36) || (0x40 ≤ b.toNat && b.toNat ≤ 0x44)

/-- A request is well formed when its command byte is not reserved (R70); its operands always are. -/
def Request.wellFormed (r : Request) : Bool :=
  isCommandByte r.cmd

/-- R19, R93: the title a record may hold: at most 16 bytes, each at most 0x7F, the last one (if any) not 0x00. -/
def HeaderRecord.wellFormed (h : HeaderRecord) : Bool :=
  decide (h.title.length ≤ titleLen) && h.title.all (fun b => decide (b.toNat ≤ 0x7F)) &&
    decide (h.title.getLast? ≠ some 0)

end Sys2Proof
end

