-- ==== Sys2Proof/Decode.lean ====
section
/-! DEFINITION. The decoder of format K (`30_encoding.md` R67, R68, R70), total on every command byte and set of
operand ports, and the encoder written from the same map. (Format H, the header window, is decoded by the FX and BE
units: `Machine/Header.lean`.) -/

namespace Sys2Proof

/-- Why a request is no command. -/
inductive DecodeError where
  /-- The command byte is reserved (R70). -/
  | reservedCommand (cmd : Byte)
  deriving DecidableEq, Repr

/-- `CMD[7:5]`, the class of a command (R68). -/
def cmdClass (cmd : Byte) : Nat := (cmd.extractLsb' 5 3).toNat

/-- `CMD[4:0]`, the selector within the class (R68, R135). -/
def cmdSelector (cmd : Byte) : Nat := (cmd.extractLsb' 0 5).toNat

/-- Class `000`, control (R68). -/
def decodeControl (p : Ports) (sel : Nat) : Option Instr :=
  match sel with
  | 0x00 => some .clear
  | 0x01 => some (.load p.path p.src p.img)
  | _ => none

/-- Class `001`, accessor read (R68); the selectors are those of `44_access.md` R137 to R159. -/
def decodeRead (p : Ports) (sel : Nat) : Option Instr :=
  match sel with
  | 0x00 => some .rdStatus
  | 0x01 => some .rdCause
  | 0x02 => some .rdFname
  | 0x03 => some .rdImglen
  | 0x04 => some (.rdImgb p.addr)
  | 0x05 => some .rdEntry
  | 0x06 => some .rdLogo
  | 0x07 => some .rdTitle
  | 0x08 => some .rdNewlic
  | 0x09 => some .rdSgb
  | 0x0A => some .rdCtype
  | 0x0B => some .rdRomsz
  | 0x0C => some .rdRamsz
  | 0x0D => some .rdDest
  | 0x0E => some .rdOldlic
  | 0x0F => some .rdVer
  | 0x10 => some .rdHck
  | 0x11 => some .rdGck
  | 0x12 => some .rdTypename
  | 0x13 => some .rdLicname
  | 0x14 => some .rdRomkb
  | 0x15 => some .rdCkok
  | 0x16 => some .rdSummary
  | _ => none

/-- Class `010`, unit access (R68). -/
def decodeUnit (p : Ports) (sel : Nat) : Option Instr :=
  match sel with
  | 0x00 => some (.uDecode p.win)
  | 0x01 => some (.uVerify p.img p.arg)
  | 0x02 => some (.uTypename p.arg)
  | 0x03 => some (.uLicname p.arg)
  | 0x04 => some (.uRomkb p.arg)
  | _ => none

/-- The command a command byte and operand ports stand for, if the byte is not reserved (R68, R70). -/
def decodeCommand (cmd : Byte) (p : Ports) : Option Instr :=
  match cmdClass cmd with
  | 0b000 => decodeControl p (cmdSelector cmd)
  | 0b001 => decodeRead p (cmdSelector cmd)
  | 0b010 => decodeUnit p (cmdSelector cmd)
  | _ => none

/-- The decoder: a request is a command or is rejected by name. -/
def decode : Request → Except DecodeError Instr
  | ⟨cmd, p⟩ =>
    match decodeCommand cmd p with
    | some i => .ok i
    | none => .error (.reservedCommand cmd)

/-- The command byte of a command (R68). -/
def Instr.byte : Instr → Byte
  | .clear => 0x00
  | .load _ _ _ => 0x01
  | .rdStatus => 0x20
  | .rdCause => 0x21
  | .rdFname => 0x22
  | .rdImglen => 0x23
  | .rdImgb _ => 0x24
  | .rdEntry => 0x25
  | .rdLogo => 0x26
  | .rdTitle => 0x27
  | .rdNewlic => 0x28
  | .rdSgb => 0x29
  | .rdCtype => 0x2A
  | .rdRomsz => 0x2B
  | .rdRamsz => 0x2C
  | .rdDest => 0x2D
  | .rdOldlic => 0x2E
  | .rdVer => 0x2F
  | .rdHck => 0x30
  | .rdGck => 0x31
  | .rdTypename => 0x32
  | .rdLicname => 0x33
  | .rdRomkb => 0x34
  | .rdCkok => 0x35
  | .rdSummary => 0x36
  | .uDecode _ => 0x40
  | .uVerify _ _ => 0x41
  | .uTypename _ => 0x42
  | .uLicname _ => 0x43
  | .uRomkb _ => 0x44

/-- A command's operands on the ports its row names (R67, R68); `p` is what stands on the other ports. -/
def Instr.onPorts (p : Ports) : Instr → Ports
  | .clear => p
  | .load path src img => { p with path := path, src := src, img := img }
  | .rdStatus => p
  | .rdCause => p
  | .rdFname => p
  | .rdImglen => p
  | .rdImgb addr => { p with addr := addr }
  | .rdEntry => p
  | .rdLogo => p
  | .rdTitle => p
  | .rdNewlic => p
  | .rdSgb => p
  | .rdCtype => p
  | .rdRomsz => p
  | .rdRamsz => p
  | .rdDest => p
  | .rdOldlic => p
  | .rdVer => p
  | .rdHck => p
  | .rdGck => p
  | .rdTypename => p
  | .rdLicname => p
  | .rdRomkb => p
  | .rdCkok => p
  | .rdSummary => p
  | .uDecode win => { p with win := win }
  | .uVerify img arg => { p with img := img, arg := arg }
  | .uTypename arg => { p with arg := arg }
  | .uLicname arg => { p with arg := arg }
  | .uRomkb arg => { p with arg := arg }

/-- The encoder: the request a host makes to issue a command, the ports its row does not name left idle. -/
def encode (i : Instr) : Request where
  cmd := i.byte
  ports := i.onPorts Ports.idle

/-- The command an opcode-table word of `nbits` bits stands for. A command is one byte (R75), so a word of another
length, or one that does not fit a byte, is none; the operands, which have no bits in the table, are those of idle
ports (assumption 9). -/
def decodeTableWord (nbits w : Nat) : Option Instr :=
  if nbits = 8 ∧ w < 256 then decodeCommand (BitVec.ofNat 8 w) Ports.idle else none

end Sys2Proof
end

