-- ==== Sys2Proof/Machine/Operands.lean ====
section
/-! DEFINITION. Reading operands: the one memory primitive (`20_memory.md` R42), the header window of an image (R49),
slices of a window (`30_encoding.md` R61) and the big-endian demultiplexer (R63), and a byte sequence seen as cells of
memory (R41). -/

namespace Sys2Proof.Machine

/-- `MemRead(a, n)` (R42): bytes `a` to `a + n - 1` of the image, in ascending address order. It is defined only inside
the image: the caller proves that. There is no `MemWrite`. -/
def memRead (img : Image) (a n : Nat) (h : a + n ≤ img.length) : Vector Byte n :=
  ⟨((img.drop a).take n).toArray, by simp; omega⟩

/-- The header window of an image, `IMG[0x100..0x14F]` (R49, R124): window byte `r` is image byte `0x100 + r`. -/
def imageWindow (img : Image) (h : hdrEnd ≤ img.length) : Window :=
  memRead img hdrBase hdrLen h

/-- The `n` bytes of a window from offset `off` on, in ascending order (R8, R44). -/
def windowSlice (w : Window) (off n : Nat) (h : off + n ≤ 0x50) : Vector Byte n :=
  ⟨((w.toList.drop off).take n).toArray, by simp; omega⟩

/-- `{hi, lo}` (R8, R63): the byte at the lower address is the more significant half. -/
def bigEndian (hi lo : Byte) : Half := hi ++ lo

/-- A byte is valid ASCII when it is 0x00 to 0x7F (R65). -/
def isAscii (b : Byte) : Bool := decide (b.toNat ≤ 0x7F)

/-- A byte sequence seen as memory cells: byte `i` at address `base + i` (R41). An address with no cell holds no byte.
A byte sequence is its own canonical form; this view is for a reader who wants addresses (assumption 8). -/
def Memory.cellsFrom (base : Nat) : Image → List Host.Cell
  | [] => []
  | b :: bs => (base, b) :: Memory.cellsFrom (base + 1) bs

/-- The cells of an image, whose first byte is at address 0 (R41). -/
def Memory.cells (img : Image) : List Host.Cell := Memory.cellsFrom 0 img

/-- The canonical form of a list of cells: addresses strictly rising. (No entry can equal what an unlisted address
reads as, because an unlisted address has no byte.) -/
abbrev Memory.wf (cells : List Host.Cell) : Prop := cells.Pairwise (fun a b => a.1 < b.1)

end Sys2Proof.Machine
end

