-- ==== Sys2Proof/Machine/State.lean ====
section
/-! DEFINITION. The state of the machine, as plain data: the architectural state of CHDV (`10_state.md` R10 to R38),
the configuration it was built with (R39), the requests waiting on its command port and the responses it has given
(`30_encoding.md` R67, R69), and the state after reset (`70_reset_and_hazards.md` R195, R196). -/

namespace Sys2Proof.Machine

/-- The load state `ST` (R11). -/
inductive LoadState where
  | empty
  | loaded
  | failed
  deriving DecidableEq, Repr

/-- The four failure kinds (R170). -/
inductive FailKind where
  | notFound
  | ioError
  | truncatedImage
  | formatError
  deriving DecidableEq, Repr

/-- The register `ERR` (R12): `NONE` or one of the failure kinds. -/
inductive Err where
  | none
  | failed (k : FailKind)
  deriving DecidableEq, Repr

/-- A failure as LOAD raises it, with the information it carries (R170, R172): only `IoError` carries any. -/
inductive Failure where
  | notFound
  | ioError (c : Cause)
  | truncatedImage
  | formatError
  deriving DecidableEq, Repr

/-- The ten-field summary record (R130), in the order of its table. -/
structure Summary where
  title        : List Byte
  typeCode     : Byte
  typeName     : DisplayName
  romKb        : Nat
  ramSizeCode  : Byte
  licCode      : Byte
  licName      : DisplayName
  version      : Byte
  checksumByte : Byte
  checksumOk   : Bool
  deriving DecidableEq, Repr

/-- What a `DONE` response can carry (R68, column "response value"). -/
inductive Value where
  /-- Nothing: CLEAR and a successful LOAD. -/
  | nothing
  | bit (b : Bool)
  | byte (b : Byte)
  | half (h : Half)
  | nat (n : Nat)
  | bytes (bs : List Byte)
  | name (n : DisplayName)
  | path (p : Path)
  | cause (c : Cause)
  | record (h : HeaderRecord)
  | summary (m : Summary)
  deriving DecidableEq, Repr

/-- A response (R69). -/
inductive Response where
  /-- The command completed with this value. -/
  | done (v : Value)
  /-- The register asked for holds no value in the present state. -/
  | absent
  /-- The command ended on a failure path; the cause is there only for `IO_ERROR`. -/
  | err (k : FailKind) (cause : Option Cause)
  /-- The command has no meaning in the present state or with these operands, or its byte is reserved. -/
  | refused
  deriving DecidableEq, Repr

/-- The whole architectural state (R10), the source's Cartridge. An `Option` is the spec's own "absent" (R136); the
hidden `PTR`, `ACC` and `STEP` of R37 are no part of it. -/
structure Cartridge where
  /-- `ST` (R11). -/
  st       : LoadState
  /-- `ERR` (R12). -/
  err      : Err
  /-- `CAUSE` (R13). -/
  cause    : Option Cause
  /-- `FNAME` (R14). -/
  fname    : Option Path
  /-- `RAW` (R15): the block's own copy of the image. -/
  raw      : Option Image
  /-- `H[ENTRY]` to `H[GCK]` (R17 to R29) with their presence bit `HV` (R16), which is whether a record is here. -/
  hdr      : Option HeaderRecord
  /-- `TYPENAME` (R30). -/
  typeName : Option DisplayName
  /-- `LICNAME` (R31). -/
  licName  : Option DisplayName
  /-- `ROMKB` (R32): a natural number of no fixed width. -/
  romKb    : Option Nat
  /-- `CKOK` (R33): the only condition flag. -/
  ckOk     : Option Bool
  /-- `REPORT` (R35): the report log, oldest record first. -/
  report   : List Summary
  deriving DecidableEq, Repr

/-- `HV` (R16): 1 when the header field registers hold a decoded header. -/
def Cartridge.hv (c : Cartridge) : Bool := c.hdr.isSome

/-- The Cartridge "constructed empty" (R195, R196). -/
def Cartridge.empty : Cartridge where
  st       := .empty
  err      := .none
  cause    := none
  fname    := none
  raw      := none
  hdr      := none
  typeName := none
  licName  := none
  romKb    := none
  ckOk     := none
  report   := []

/-- CHDV has no fault: every command ends in a response (R69, R132, R201), its four failure kinds are such responses
(R179), and no read ever falls outside an image because `memRead` asks for the proof that it does not (R42). So no
step raises a fault, and this type has no constructor (assumption 16). -/
inductive Fault where
  deriving DecidableEq, Repr

/-- Why the model gives a step no meaning. -/
inductive Refusal where
  /-- Raised by an arm of `exec` whose command has no meaning in the model yet; no arm is one. Safe: no claim passes
  through it. -/
  | notModelled (mnemonic : String)
  deriving DecidableEq, Repr

/-- The state of the machine. -/
structure State where
  /-- The architectural state (R10). -/
  cart : Cartridge
  /-- The configuration (R7, R39): read by every command that looks a name up, written by none (assumption 4). -/
  cfg  : Config
  /-- The requests the host has put on the command port and CHDV has not begun, oldest first (R36, R51, R67;
  assumption 1). -/
  cmds : List Request
  /-- The responses given so far, oldest first (R69; assumption 2). -/
  out  : List Response
  deriving DecidableEq, Repr

/-- The machine right after reset (R195, R196): constructed empty, the report log empty, no request waiting. -/
def State.reset : State where
  cart := Cartridge.empty
  cfg  := Config.chip
  cmds := []
  out  := []

end Sys2Proof.Machine
end

