-- ==== Sys2Proof/Machine/Flags.lean ====
section
/-! DEFINITION. The checksum engine (`41_checksum.md` R100, R101), which computes the one condition flag `CKOK`, and
the packing of `STATUS` (`10_state.md` R34). -/

namespace Sys2Proof.Machine

/-- `CkSum(img)` (R100): the sum modulo 256 of image bytes 0x134 to 0x14C, reduced at every addition. -/
def ckSum (img : Image) (h : ckLast < img.length) : Byte :=
  (memRead img ckFirst ckCount h).toList.foldl (fun acc b => acc + b) 0

/-- `Verify(img, stored)` (R101): the inner sum does not wrap before the test. -/
def verify (img : Image) (stored : Byte) (h : ckLast < img.length) : Bool :=
  decide (((ckSum img h).toNat + stored.toNat + 1) % 256 = 0)

/-- The 2-bit code of `ST` (R11). -/
def LoadState.code : LoadState → BitVec 2
  | .empty => 0
  | .loaded => 1
  | .failed => 2

/-- The 3-bit code of a failure kind (R12, R170). -/
def FailKind.code : FailKind → BitVec 3
  | .notFound => 1
  | .ioError => 2
  | .truncatedImage => 3
  | .formatError => 4

/-- The 3-bit code of `ERR` (R12). -/
def Err.code : Err → BitVec 3
  | .none => 0
  | .failed k => k.code

/-- `STATUS.CKOK` (R33, R34): 1 when an image is loaded and its checksum passed, else 0. -/
def Cartridge.statusCkok (c : Cartridge) : BitVec 1 :=
  if c.st = .loaded ∧ c.ckOk = some true then 1 else 0

/-- The view `STATUS` (R34): `[1:0]` ST, `[4:2]` ERR, `[5]` CKOK, `[7:6]` zero. -/
def Cartridge.status (c : Cartridge) : Byte :=
  (0 : BitVec 2) ++ c.statusCkok ++ c.err.code ++ c.st.code

/-- The 2-bit kind code of a response (R69). -/
def Response.kindCode : Response → BitVec 2
  | .done _ => 0
  | .absent => 1
  | .err _ _ => 2
  | .refused => 3

/-- The rendering of the checksum boolean in a summary (R130, field 10). -/
def Summary.verdict (m : Summary) : DisplayName :=
  if m.checksumOk then ascii "PASSED" else ascii "FAILED"

end Sys2Proof.Machine
end

