-- ==== Sys2Proof/Machine/Header.lean ====
section
/-! DEFINITION. The header decoder, units FX and BE (`40_decode.md` R91), with the title rules (`30_encoding.md` R64,
R65), and the helper `EncodeWindow` (R93), which is no command of CHDV. -/

namespace Sys2Proof.Machine

/-- The title region `w[0x34..0x43]` (R61, R64). -/
def titleRegion (w : Window) : List Byte := (windowSlice w 0x34 titleLen (by decide)).toList

/-- How many bytes of a title region are kept (R64): 0 if every byte is 0x00, else 1 more than the index of the last
byte that is not. -/
def keptLen : List Byte → Nat
  | [] => 0
  | b :: bs =>
    match keptLen bs with
    | 0 => if b = 0 then 0 else 1
    | k + 1 => k + 2

/-- The title of a region (R64): only trailing 0x00 bytes are removed. -/
def trimTitle (t : List Byte) : List Byte := t.take (keptLen t)

/-- `Decode(w)` (R91): `none` is the failure `FormatError`, raised exactly when the title region is not ASCII. -/
def decodeWindow (w : Window) : Option HeaderRecord :=
  if (titleRegion w).all isAscii then
    some
      { entry  := windowSlice w 0x00 4 (by decide)
        logo   := windowSlice w 0x04 0x30 (by decide)
        title  := trimTitle (titleRegion w)
        newlic := bigEndian w[0x44] w[0x45]
        sgb    := w[0x46]
        ctype  := w[0x47]
        romsz  := w[0x48]
        ramsz  := w[0x49]
        dest   := w[0x4A]
        oldlic := w[0x4B]
        ver    := w[0x4C]
        hck    := w[0x4D]
        gck    := bigEndian w[0x4E] w[0x4F] }
  else none

/-- A title padded with 0x00 bytes to the 16 bytes of its region (R93). -/
def padTitle (t : List Byte) : Vector Byte titleLen :=
  ⟨((t ++ List.replicate titleLen 0).take titleLen).toArray, by simp⟩

/-- The two bytes of a 16-bit field, high byte first (R63, R93). -/
def halfBytes (h : Half) : List Byte := [h.extractLsb' 8 8, h.extractLsb' 0 8]

/-- `EncodeWindow(rec)` (R93). The spec defines it for well-formed records only; a longer title is cut here
(assumption 17). -/
def encodeWindow (h : HeaderRecord) : Window :=
  ⟨(h.entry.toList ++ h.logo.toList ++ (padTitle h.title).toList ++ halfBytes h.newlic ++
      [h.sgb, h.ctype, h.romsz, h.ramsz, h.dest, h.oldlic, h.ver, h.hck] ++ halfBytes h.gck).toArray,
    by simp [halfBytes, titleLen]⟩

end Sys2Proof.Machine
end

