-- ==== Sys2Proof/Machine/Lookup.lean ====
section
/-! DEFINITION. The lookup ROMs, unit LUT (`42_lookup.md`): `TypeName` (R111), `LicName` (R114) and `RomKB` (R116). The
two lookups are independent: the type table is dense, the licensee table sparse (R118). -/

namespace Sys2Proof.Machine

/-- `TypeName(code)` (R111): the table entry in range, else the sentinel. -/
def typeNameOf (cfg : Config) (code : Byte) : DisplayName :=
  if h : code.toNat < typeTableLen then cfg.typeRom[code.toNat] else unknownName

/-- `LIC_TABLE[code]` (R113): the entry, if the code has one. -/
def licEntry (cfg : Config) (code : Byte) : Option DisplayName := cfg.licRom.lookup code

/-- `LicName(code)` (R114) under the configured `LIC_BOUND_MODE`. -/
def licNameOf (cfg : Config) (code : Byte) : DisplayName :=
  if cfg.licBoundMode = .parity ∧ typeTableLen ≤ code.toNat then unknownName
  else (licEntry cfg code).getD unknownName

/-- `RomKB(code)` (R66, R116): `32 * 2^code`, of no fixed width. -/
def romKbOf (code : Byte) : Nat := romKbBase * 2 ^ code.toNat

end Sys2Proof.Machine
end

