-- ==== Sys2Proof/Machine/Ops.lean ====
section
/-! DEFINITION. The shared operations on the state: giving a response (`30_encoding.md` R69), the failure path
(`60_exceptions.md` R179) and the way back from it (R181, `43_loader.md` R120), the commit of a load (R127), the reads
of registers that may be absent (`44_access.md` R136), and taking a request off the command port (`10_state.md` R36). -/

namespace Sys2Proof.Machine

/-- The three outcomes of a step of this machine. -/
abbrev Outcome := Host.Outcome State Fault Refusal

/-- Gives the command's one response (R69). -/
def State.respond (r : Response) (s : State) : State := { s with out := s.out ++ [r] }

/-- Replaces the architectural state. -/
def State.setCart (c : Cartridge) (s : State) : State := { s with cart := c }

/-- The kind of a failure (R170). -/
def Failure.kind : Failure → FailKind
  | .notFound => .notFound
  | .ioError _ => .ioError
  | .truncatedImage => .truncatedImage
  | .formatError => .formatError

/-- What a failure leaves in `CAUSE` (R170, R179): the cause of an `IoError`, else nothing. -/
def Failure.info : Failure → Option Cause
  | .notFound => none
  | .ioError c => some c
  | .truncatedImage => none
  | .formatError => none

/-- The failure path on the architectural state (R179): `ST`, `ERR` and `CAUSE` are written and nothing else is. -/
def Cartridge.fail (f : Failure) (c : Cartridge) : Cartridge :=
  { c with st := .failed, err := .failed f.kind, cause := f.info }

/-- `raise K(info)` (R179): the failure path, ending in the response `ERR(K, CAUSE)`. -/
def State.raise (f : Failure) (s : State) : State :=
  (s.setCart (s.cart.fail f)).respond (.err f.kind f.info)

/-- What CLEAR does to the architectural state (R120, R197): everything but `REPORT` as after reset. It is the only way
out of `FAILED` and of `LOADED` (R181). -/
def Cartridge.clear (c : Cartridge) : Cartridge := { Cartridge.empty with report := c.report }

/-- `Summary(rec, tn, ln, kb, ok)` (R130). -/
def summaryOf (h : HeaderRecord) (tn ln : DisplayName) (kb : Nat) (ok : Bool) : Summary where
  title        := h.title
  typeCode     := h.ctype
  typeName     := tn
  romKb        := kb
  ramSizeCode  := h.ramsz
  licCode      := h.oldlic
  licName      := ln
  version      := h.ver
  checksumByte := h.hck
  checksumOk   := ok

/-- The commit of step 6 of LOAD (R121, R127): the report record is appended and every register is written at once.
`CAUSE` is not among them. -/
def Cartridge.commit (path : Path) (img : Image) (h : HeaderRecord) (tn ln : DisplayName) (kb : Nat) (ok : Bool)
    (c : Cartridge) : Cartridge :=
  { c with
    st       := .loaded
    err      := .none
    fname    := some path
    raw      := some img
    hdr      := some h
    typeName := some tn
    licName  := some ln
    romKb    := some kb
    ckOk     := some ok
    report   := c.report ++ [summaryOf h tn ln kb ok] }

/-- Steps 4 to 6 of LOAD (R125, R126, R127) for an image whose header decoded to `h`: resolve the two names, run the
checksum, compute the ROM size, commit. Nothing here can fail. -/
def Cartridge.loadDecoded (cfg : Config) (path : Path) (img : Image) (hlen : hdrEnd ≤ img.length) (h : HeaderRecord)
    (c : Cartridge) : Cartridge :=
  c.commit path img h (typeNameOf cfg h.ctype) (licNameOf cfg h.oldlic) (romKbOf h.romsz)
    (verify img h.hck (Nat.lt_of_lt_of_le (by decide) hlen))

/-- The response to a read of a register that may be absent (R136): `DONE` with its value, or `ABSENT`. -/
def answer (v : Option Value) : Response :=
  match v with
  | some v => .done v
  | none => .absent

/-- A register that holds a value only while an image is loaded (R136). -/
def Cartridge.whenLoaded {α : Type} (c : Cartridge) (reg : Option α) : Option α :=
  if c.st = .loaded then reg else none

/-- A read of header field register `f` (R136, R142 to R154), answered as a value by `val`. -/
def State.readHeader {α : Type} (f : HeaderRecord → α) (val : α → Value) (s : State) : State :=
  s.respond (answer ((s.cart.whenLoaded s.cart.hdr).map fun h => val (f h)))

/-- A read of a register `reg` that is present only while an image is loaded (R136, R139, R140, R155 to R158). -/
def State.readLoaded {α : Type} (reg : Cartridge → Option α) (val : α → Value) (s : State) : State :=
  s.respond (answer ((s.cart.whenLoaded (reg s.cart)).map val))

/-- The summary rebuilt from the registers (R159), if each of them holds a value. -/
def Cartridge.summary (c : Cartridge) : Option Summary :=
  match c.hdr, c.typeName, c.licName, c.romKb, c.ckOk with
  | some h, some tn, some ln, some kb, some ok => some (summaryOf h tn ln kb ok)
  | _, _, _, _, _ => none

/-- Takes the oldest request off the command port (R36, R51), if there is one. -/
def State.fetch (s : State) : Option (Request × State) :=
  match s.cmds with
  | [] => none
  | r :: rest => some (r, { s with cmds := rest })

/-- A reserved command byte (R70): the response `REFUSED`, and no state changes. -/
def execReserved (s : State) : Outcome := .next (s.respond .refused)

/-- No request is waiting (R184, R195): CHDV runs nothing by itself and keeps all its state. -/
def idle (s : State) : Outcome := .next s

end Sys2Proof.Machine
end

