-- ==== Sys2Proof/Machine/Access.lean ====
section
/-! DEFINITION. The accessor reads (`44_access.md`): each reads state, writes none and gives one response (R135). -/

namespace Sys2Proof.Machine

/-- `RD.STATUS` (R137): the view `STATUS`, never absent. -/
def execRdStatus (s : State) : Outcome := .next (s.respond (.done (.byte s.cart.status)))

/-- `RD.CAUSE` (R138): `CAUSE` when `ERR = IO_ERROR`, else `ABSENT`. -/
def execRdCause (s : State) : Outcome :=
  .next (s.respond (answer ((if s.cart.err = .failed .ioError then s.cart.cause else none).map .cause)))

/-- `RD.FNAME` (R139). -/
def execRdFname (s : State) : Outcome := .next (s.readLoaded Cartridge.fname .path)

/-- `RD.IMGLEN` (R140): `len(RAW)`. -/
def execRdImglen (s : State) : Outcome := .next (s.readLoaded Cartridge.raw fun raw => .nat raw.length)

/-- `RD.IMGB(addr)` (R141): `ABSENT` when nothing is loaded, the byte of `RAW` inside the image, `REFUSED` outside. -/
def execRdImgb (addr : Nat) (s : State) : Outcome :=
  match s.cart.whenLoaded s.cart.raw with
  | none => .next (s.respond .absent)
  | some raw =>
    match raw[addr]? with
    | some b => .next (s.respond (.done (.byte b)))
    | none => .next (s.respond .refused)

/-- `RD.ENTRY` (R142): 4 bytes in image order. -/
def execRdEntry (s : State) : Outcome := .next (s.readHeader HeaderRecord.entry (fun v => .bytes v.toList))

/-- `RD.LOGO` (R143): 0x30 bytes in image order. -/
def execRdLogo (s : State) : Outcome := .next (s.readHeader HeaderRecord.logo (fun v => .bytes v.toList))

/-- `RD.TITLE` (R144): 0 to 16 bytes, trimmed; the empty title is a value. -/
def execRdTitle (s : State) : Outcome := .next (s.readHeader HeaderRecord.title .bytes)

/-- `RD.NEWLIC` (R145): 16 bits, assembled big-endian. -/
def execRdNewlic (s : State) : Outcome := .next (s.readHeader HeaderRecord.newlic .half)

/-- `RD.SGB` (R146): 8 bits. -/
def execRdSgb (s : State) : Outcome := .next (s.readHeader HeaderRecord.sgb .byte)

/-- `RD.CTYPE` (R147): 8 bits. -/
def execRdCtype (s : State) : Outcome := .next (s.readHeader HeaderRecord.ctype .byte)

/-- `RD.ROMSZ` (R148): 8 bits. -/
def execRdRomsz (s : State) : Outcome := .next (s.readHeader HeaderRecord.romsz .byte)

/-- `RD.RAMSZ` (R149): 8 bits, the code itself. -/
def execRdRamsz (s : State) : Outcome := .next (s.readHeader HeaderRecord.ramsz .byte)

/-- `RD.DEST` (R150): 8 bits. -/
def execRdDest (s : State) : Outcome := .next (s.readHeader HeaderRecord.dest .byte)

/-- `RD.OLDLIC` (R151): 8 bits. -/
def execRdOldlic (s : State) : Outcome := .next (s.readHeader HeaderRecord.oldlic .byte)

/-- `RD.VER` (R152): 8 bits. -/
def execRdVer (s : State) : Outcome := .next (s.readHeader HeaderRecord.ver .byte)

/-- `RD.HCK` (R153): 8 bits, whether or not it verified. -/
def execRdHck (s : State) : Outcome := .next (s.readHeader HeaderRecord.hck .byte)

/-- `RD.GCK` (R154): 16 bits, assembled big-endian, raw only. -/
def execRdGck (s : State) : Outcome := .next (s.readHeader HeaderRecord.gck .half)

/-- `RD.TYPENAME` (R155): a string. -/
def execRdTypename (s : State) : Outcome := .next (s.readLoaded Cartridge.typeName .name)

/-- `RD.LICNAME` (R156): a string. -/
def execRdLicname (s : State) : Outcome := .next (s.readLoaded Cartridge.licName .name)

/-- `RD.ROMKB` (R157): a natural number. -/
def execRdRomkb (s : State) : Outcome := .next (s.readLoaded Cartridge.romKb .nat)

/-- `RD.CKOK` (R158): 1 bit; absent, not 0, when nothing is loaded. -/
def execRdCkok (s : State) : Outcome := .next (s.readLoaded Cartridge.ckOk .bit)

/-- `RD.SUMMARY` (R159): the ten-field record, rebuilt from the registers. -/
def execRdSummary (s : State) : Outcome := .next (s.readLoaded Cartridge.summary .summary)

end Sys2Proof.Machine
end

