-- ==== Sys2Proof/Machine/Loader.lean ====
section
/-! DEFINITION. The loader sequencer, part SEQ: CLEAR and LOAD (`43_loader.md`). -/

namespace Sys2Proof.Machine

/-- `CLEAR` (R120). -/
def execClear (s : State) : Outcome :=
  .next ((s.setCart s.cart.clear).respond (.done .nothing))

/-- `LOAD(path, src, img)` (R121): refused outside `EMPTY` (R133); then acquisition (R122), length (R123) and decode
(R124), in that order, each with its failure (R178); then steps 4 to 6. -/
def execLoad (path : Path) (src : Src) (img : Image) (s : State) : Outcome :=
  if s.cart.st = .empty then
    match src with
    | .notFound => .next (s.raise .notFound)
    | .ioFault c => .next (s.raise (.ioError c))
    | .ok =>
      if hlen : hdrEnd ≤ img.length then
        match decodeWindow (imageWindow img hlen) with
        | none => .next (s.raise .formatError)
        | some h => .next ((s.setCart (s.cart.loadDecoded s.cfg path img hlen h)).respond (.done .nothing))
      else .next (s.raise .truncatedImage)
  else .next (s.respond .refused)

end Sys2Proof.Machine
end

