-- ==== Sys2Proof/Machine/Unit.lean ====
section
/-! DEFINITION. The unit-access commands: each runs one of CHDV's pure functions on its operands, reads no state but the
configuration and writes none (`40_decode.md` R90, `41_checksum.md` R102, `42_lookup.md` R112, R115, R117). -/

namespace Sys2Proof.Machine

/-- `U.DECODE(win)` (R90): the response `ERR(FORMAT_ERROR)` does not run the failure path. -/
def execUDecode (win : Window) (s : State) : Outcome :=
  match decodeWindow win with
  | none => .next (s.respond (.err .formatError none))
  | some h => .next (s.respond (.done (.record h)))

/-- `U.VERIFY(img, arg)` (R102): refused when the image does not hold offset 0x14C. -/
def execUVerify (img : Image) (arg : Byte) (s : State) : Outcome :=
  if h : ckLast < img.length then .next (s.respond (.done (.bit (verify img arg h))))
  else .next (s.respond .refused)

/-- `U.TYPENAME(arg)` (R112). -/
def execUTypename (arg : Byte) (s : State) : Outcome :=
  .next (s.respond (.done (.name (typeNameOf s.cfg arg))))

/-- `U.LICNAME(arg)` (R115). -/
def execULicname (arg : Byte) (s : State) : Outcome :=
  .next (s.respond (.done (.name (licNameOf s.cfg arg))))

/-- `U.ROMKB(arg)` (R117). -/
def execURomkb (arg : Byte) (s : State) : Outcome :=
  .next (s.respond (.done (.nat (romKbOf arg))))

end Sys2Proof.Machine
end

