-- ==== Sys2Proof/Machine/Dispatch.lean ====
section
/-! DEFINITION. One arm per command: the meaning each calls. -/

namespace Sys2Proof.Machine

def exec (i : Instr) (s : State) : Host.Outcome State Fault Refusal :=
  match i with
  | .clear => Sys2Proof.Machine.execClear s
  | .load path src img => Sys2Proof.Machine.execLoad path src img s
  | .rdStatus => Sys2Proof.Machine.execRdStatus s
  | .rdCause => Sys2Proof.Machine.execRdCause s
  | .rdFname => Sys2Proof.Machine.execRdFname s
  | .rdImglen => Sys2Proof.Machine.execRdImglen s
  | .rdImgb addr => Sys2Proof.Machine.execRdImgb addr s
  | .rdEntry => Sys2Proof.Machine.execRdEntry s
  | .rdLogo => Sys2Proof.Machine.execRdLogo s
  | .rdTitle => Sys2Proof.Machine.execRdTitle s
  | .rdNewlic => Sys2Proof.Machine.execRdNewlic s
  | .rdSgb => Sys2Proof.Machine.execRdSgb s
  | .rdCtype => Sys2Proof.Machine.execRdCtype s
  | .rdRomsz => Sys2Proof.Machine.execRdRomsz s
  | .rdRamsz => Sys2Proof.Machine.execRdRamsz s
  | .rdDest => Sys2Proof.Machine.execRdDest s
  | .rdOldlic => Sys2Proof.Machine.execRdOldlic s
  | .rdVer => Sys2Proof.Machine.execRdVer s
  | .rdHck => Sys2Proof.Machine.execRdHck s
  | .rdGck => Sys2Proof.Machine.execRdGck s
  | .rdTypename => Sys2Proof.Machine.execRdTypename s
  | .rdLicname => Sys2Proof.Machine.execRdLicname s
  | .rdRomkb => Sys2Proof.Machine.execRdRomkb s
  | .rdCkok => Sys2Proof.Machine.execRdCkok s
  | .rdSummary => Sys2Proof.Machine.execRdSummary s
  | .uDecode win => Sys2Proof.Machine.execUDecode win s
  | .uVerify img arg => Sys2Proof.Machine.execUVerify img arg s
  | .uTypename arg => Sys2Proof.Machine.execUTypename arg s
  | .uLicname arg => Sys2Proof.Machine.execULicname arg s
  | .uRomkb arg => Sys2Proof.Machine.execURomkb arg s

end Sys2Proof.Machine
end

