-- ==== Sys2Proof/Machine/Step.lean ====
section
/-! DEFINITION. One step: the command at the head of the command port, whole (`20_memory.md` R51, R53), or nothing when
no request is waiting. -/

namespace Sys2Proof.Machine

/-- One step. A request is taken off the port and decoded; a command runs to its response (R132), a reserved byte is
answered `REFUSED` (R70), and with no request waiting CHDV stays idle (R184). -/
def step (s : State) : Host.Outcome State Fault Refusal :=
  match s.fetch with
  | none => idle s
  | some (r, s') =>
    match decode r with
    | .ok i => exec i s'
    | .error _ => execReserved s'

/-- `s` with an opcode-table word put on the command port before every request that waits there, its operands those of
idle ports, so that the next step runs it (assumptions 1 and 9). A command is one byte (R75): of `w`, bits 7 to 0. -/
def State.withFetchWord (s : State) (_nbits w : Nat) : State :=
  { s with cmds := { cmd := BitVec.ofNat 8 w, ports := Ports.idle } :: s.cmds }

end Sys2Proof.Machine
end

