-- ==== Sys2Proof/Safety.lean ====
section
/-! DEFINITION. What counts as a sound state, in the terms claims use: the invariant of `10_state.md` R38, and the tie
between the report log and the registers (`44_access.md` R159). -/

namespace Sys2Proof.Machine

/-- Every derived register holds no value (R38). -/
def Cartridge.NoDerived (c : Cartridge) : Prop :=
  c.typeName = none ∧ c.licName = none ∧ c.romKb = none ∧ c.ckOk = none

/-- The clause of R38 for `ST = EMPTY`. -/
def Cartridge.EmptyClause (c : Cartridge) : Prop :=
  c.st = .empty ∧ c.err = .none ∧ c.cause = none ∧ c.fname = none ∧ c.raw = none ∧ c.hv = false ∧ c.NoDerived

/-- The clause of R38 for `ST = LOADED`: the header registers are the decode of `RAW[0x100..0x14F]`, the title bytes of
`RAW` are at most 0x7F, and each derived register is the function of them that its rule names. -/
def Cartridge.LoadedClause (cfg : Config) (c : Cartridge) : Prop :=
  c.st = .loaded ∧ c.err = .none ∧ c.cause = none ∧ c.fname.isSome = true ∧ c.hv = true ∧
  ∃ (img : Image) (h : HeaderRecord) (hlen : 0x150 ≤ img.length),
    c.raw = some img ∧ c.hdr = some h ∧
    decodeWindow (memRead img 0x100 0x50 hlen) = some h ∧
    (∀ a b, 0x134 ≤ a → a ≤ 0x143 → img[a]? = some b → b.toNat ≤ 0x7F) ∧
    c.typeName = some (typeNameOf cfg h.ctype) ∧
    c.licName = some (licNameOf cfg h.oldlic) ∧
    c.romKb = some (32 * 2 ^ h.romsz.toNat) ∧
    c.ckOk = some (verify img h.hck (Nat.lt_of_lt_of_le (by decide) hlen))

/-- The clause of R38 for `ST = FAILED`: `CAUSE` is present exactly when `ERR = IO_ERROR`. -/
def Cartridge.FailedClause (c : Cartridge) : Prop :=
  c.st = .failed ∧ (∃ k, c.err = .failed k ∧ (c.cause.isSome = true ↔ k = .ioError)) ∧
  c.fname = none ∧ c.raw = none ∧ c.hv = false ∧ c.NoDerived

/-- The invariant of R38. The three clauses exclude each other by `ST`. -/
def State.Inv (s : State) : Prop :=
  s.cart.EmptyClause ∨ s.cart.LoadedClause s.cfg ∨ s.cart.FailedClause

/-- While an image is loaded, the newest report record is the summary rebuilt from the registers (R159). -/
def State.ReportInv (s : State) : Prop :=
  s.cart.st = .loaded → ∃ m, s.cart.summary = some m ∧ s.cart.report.getLast? = some m

end Sys2Proof.Machine
end

