-- ==== Sys2Proof/Certificates/Slice0/Obligations.lean ====
section
/-! DEFINITION. The statements for the provers, in the order of OBLIGATIONS.json. A command's next state is written out
as `{ s with … }`: whatever the update does not name is unchanged (the frame). The command's response (R69) is the one
element appended to `out`, the model's rendering of the response port (assumption 2). -/

namespace Sys2Proof.Claims

open Sys2Proof.Machine

/-- Command byte `cmd` is the command `i`, which reads the header registers as `val` says: with an image loaded it
answers `DONE` with the register's value, otherwise `ABSENT` (R136), and it writes nothing but its response. -/
def ReadsHeaderAs (cmd : Byte) (i : Instr) (val : HeaderRecord → Value) : Prop :=
  (∀ p, decode ⟨cmd, p⟩ = .ok i) ∧
  (∀ s h, s.cart.st = .loaded → s.cart.hdr = some h →
    exec i s = .next { s with out := s.out ++ [.done (val h)] }) ∧
  (∀ s, s.cart.st ≠ .loaded → exec i s = .next { s with out := s.out ++ [.absent] })

/-- Command byte `cmd` is the command `i`, which reads a derived register: in a sound state with an image loaded it
answers `DONE` with the value `val` gives for the configuration, the image and the header record, otherwise `ABSENT`. -/
def ReadsDerivedAs (cmd : Byte) (i : Instr) (val : Config → Image → HeaderRecord → Value) : Prop :=
  (∀ p, decode ⟨cmd, p⟩ = .ok i) ∧
  (∀ s img h, s.Inv → s.cart.st = .loaded → s.cart.raw = some img → s.cart.hdr = some h →
    exec i s = .next { s with out := s.out ++ [.done (val s.cfg img h)] }) ∧
  (∀ s, s.cart.st ≠ .loaded → exec i s = .next { s with out := s.out ++ [.absent] })

/-- The sum of the 25 bytes of an image the checksum covers, `IMG[0x134..0x14C]` (R100), not reduced. -/
def rawSum (img : Image) : Nat := (((img.drop 0x134).take 25).map BitVec.toNat).sum

/-- Every title byte of an image, `IMG[0x134..0x143]`, is ASCII (R65, R91; assumption 14). -/
def TitleAscii (img : Image) : Prop := ∀ a b, 0x134 ≤ a → a ≤ 0x143 → img[a]? = some b → b.toNat ≤ 0x7F

end Sys2Proof.Claims

open Sys2Proof Sys2Proof.Machine Sys2Proof.Claims

/-! ## Reset, the command port and the command map -/

/-- R195. After reset CHDV is in the state CLEAR produces and `REPORT` is empty; it runs nothing by itself. (That no
request waits and no response was given is the model's: assumptions 1 and 2.) -/
def Obligations.ResetIsConstructedEmpty : Prop :=
  (State.reset.cart.st = .empty ∧ State.reset.cart.err = .none ∧ State.reset.cart.cause = none ∧
    State.reset.cart.fname = none ∧ State.reset.cart.raw = none ∧ State.reset.cart.hv = false ∧
    State.reset.cart.hdr = none ∧ State.reset.cart.typeName = none ∧ State.reset.cart.licName = none ∧
    State.reset.cart.romKb = none ∧ State.reset.cart.ckOk = none ∧ State.reset.cart.report = []) ∧
  (∀ s, ∃ t, exec .clear s = .next t ∧ { t.cart with report := [] } = State.reset.cart) ∧
  step State.reset = .next State.reset

/-- R196, R136, R137. In a constructed empty state `STATUS` reads 0x00 and every other accessor answers `ABSENT`. -/
def Obligations.EmptyAccessorsAnswerAbsent : Prop :=
  ∀ s, s.cart.EmptyClause →
    exec .rdStatus s = .next { s with out := s.out ++ [.done (.byte 0x00)] } ∧
    ∀ (addr : Nat) (i : Instr), i ∈ [Instr.rdCause, .rdFname, .rdImglen, .rdImgb addr, .rdEntry, .rdLogo, .rdTitle,
        .rdNewlic, .rdSgb, .rdCtype, .rdRomsz, .rdRamsz, .rdDest, .rdOldlic, .rdVer, .rdHck, .rdGck, .rdTypename,
        .rdLicname, .rdRomkb, .rdCkok, .rdSummary] →
      exec i s = .next { s with out := s.out ++ [.absent] }

/-- R68. The command map, byte by byte, each command with the operands of its row. -/
def Obligations.CommandMap : Prop :=
  ∀ p : Ports,
    decode ⟨0b00000000, p⟩ = .ok .clear ∧ decode ⟨0b00000001, p⟩ = .ok (.load p.path p.src p.img) ∧
    decode ⟨0b00100000, p⟩ = .ok .rdStatus ∧ decode ⟨0b00100001, p⟩ = .ok .rdCause ∧
    decode ⟨0b00100010, p⟩ = .ok .rdFname ∧ decode ⟨0b00100011, p⟩ = .ok .rdImglen ∧
    decode ⟨0b00100100, p⟩ = .ok (.rdImgb p.addr) ∧ decode ⟨0b00100101, p⟩ = .ok .rdEntry ∧
    decode ⟨0b00100110, p⟩ = .ok .rdLogo ∧ decode ⟨0b00100111, p⟩ = .ok .rdTitle ∧
    decode ⟨0b00101000, p⟩ = .ok .rdNewlic ∧ decode ⟨0b00101001, p⟩ = .ok .rdSgb ∧
    decode ⟨0b00101010, p⟩ = .ok .rdCtype ∧ decode ⟨0b00101011, p⟩ = .ok .rdRomsz ∧
    decode ⟨0b00101100, p⟩ = .ok .rdRamsz ∧ decode ⟨0b00101101, p⟩ = .ok .rdDest ∧
    decode ⟨0b00101110, p⟩ = .ok .rdOldlic ∧ decode ⟨0b00101111, p⟩ = .ok .rdVer ∧
    decode ⟨0b00110000, p⟩ = .ok .rdHck ∧ decode ⟨0b00110001, p⟩ = .ok .rdGck ∧
    decode ⟨0b00110010, p⟩ = .ok .rdTypename ∧ decode ⟨0b00110011, p⟩ = .ok .rdLicname ∧
    decode ⟨0b00110100, p⟩ = .ok .rdRomkb ∧ decode ⟨0b00110101, p⟩ = .ok .rdCkok ∧
    decode ⟨0b00110110, p⟩ = .ok .rdSummary ∧ decode ⟨0b01000000, p⟩ = .ok (.uDecode p.win) ∧
    decode ⟨0b01000001, p⟩ = .ok (.uVerify p.img p.arg) ∧ decode ⟨0b01000010, p⟩ = .ok (.uTypename p.arg) ∧
    decode ⟨0b01000011, p⟩ = .ok (.uLicname p.arg) ∧ decode ⟨0b01000100, p⟩ = .ok (.uRomkb p.arg)

/-- R67, R68. Decoding the encoding of a command gives it back, with every operand at every value. -/
def Obligations.CommandRoundTrip : Prop :=
  ∀ i : Instr, decode (encode i) = .ok i

/-- R68, R70. The other direction: a request that decodes to a command carries that command's byte, and the command's
operands stand on the ports its row names; so one byte has one meaning. -/
def Obligations.DecodedCommandKeepsItsByte : Prop :=
  ∀ (r : Request) (i : Instr), decode r = .ok i → (encode i).cmd = r.cmd ∧ i.onPorts r.ports = r.ports

/-- R70. The reserved bytes are 0x02 to 0x1F, 0x37 to 0x3F and 0x45 to 0xFF and no other; a request with one of them is
answered `REFUSED` and changes no state. -/
def Obligations.ReservedByteIsRefused : Prop :=
  (∀ r : Request, (∃ e, decode r = .error e) ↔
    (0x02 ≤ r.cmd.toNat ∧ r.cmd.toNat ≤ 0x1F) ∨ (0x37 ≤ r.cmd.toNat ∧ r.cmd.toNat ≤ 0x3F) ∨
      0x45 ≤ r.cmd.toNat) ∧
  (∀ (s : State) (r : Request) (rest : List Request), s.cmds = r :: rest → (∃ e, decode r = .error e) →
    step s = .next { s with cmds := rest, out := s.out ++ [.refused] })

/-- R36, R51, R53. A step runs the command at the head of the command port, taken off the port, and nothing else. (The
port as a queue is the model's: assumption 1.) -/
def Obligations.StepRunsDecodedCommand : Prop :=
  ∀ (s : State) (r : Request) (rest : List Request) (i : Instr),
    s.cmds = r :: rest → decode r = .ok i → step s = exec i { s with cmds := rest }

/-- R184. Between commands the block keeps all its state. (That a step with no request waiting is a step at all is the
model's: assumption 1.) -/
def Obligations.IdleStepKeepsAllState : Prop :=
  ∀ s : State, s.cmds = [] → step s = .next s

/-- R69, R132, R201, R39, R184. Every step has a next state; one that takes a request gives exactly one response;
none writes the configuration. (That requests wait in a queue, that a step takes exactly the oldest one off it, and that a
step with no request waiting is idle, are the model's: assumption 1, DESIGN CHOICE; that a response is appended to `out`
is assumption 2.) -/
def Obligations.EveryStepGivesOneResponse : Prop :=
  ∀ s : State, ∃ t, step s = .next t ∧ t.cfg = s.cfg ∧
    (s.cmds = [] → t = s) ∧
    (∀ r rest, s.cmds = r :: rest → t.cmds = rest ∧ ∃ resp, t.out = s.out ++ [resp])

/-! ## The header decoder -/

/-- R63. The two 16-bit fields are assembled big-endian: the byte at the lower offset is the more significant. -/
def Obligations.HalfFieldsAreBigEndian : Prop :=
  ∀ (w : Window) (h : HeaderRecord), decodeWindow w = some h →
    h.newlic.toNat = w[0x44].toNat * 256 + w[0x45].toNat ∧ h.gck.toNat = w[0x4E].toNat * 256 + w[0x4F].toNat

/-- R64. The title is the title region without its trailing 0x00 bytes; nothing else is removed. -/
def Obligations.TitleDropsOnlyTrailingNul : Prop :=
  ∀ (w : Window) (h : HeaderRecord), decodeWindow w = some h →
    ((∀ i (_ : i < 16), w[0x34 + i] = 0) → h.title = []) ∧
    (∀ i (_ : i < 16), w[0x34 + i] ≠ 0 → (∀ j (_ : j < 16), i < j → w[0x34 + j] = 0) →
      h.title = (w.toList.drop 0x34).take (i + 1))

/-- R91, R65. The decode fails exactly when some byte of the title region is 0x80 or more. (The bound is the spec's own
presumption, G1: assumption 14.) -/
def Obligations.DecodeFailsExactlyOnNonAsciiTitle : Prop :=
  ∀ w : Window, decodeWindow w = none ↔ ∃ i, ∃ _ : i < 16, 0x80 ≤ w[0x34 + i].toNat

/-- R61, R62. Every field but the title and the two 16-bit ones is a copy of its window bytes, at its fixed offset. -/
def Obligations.FieldsAreCopiedByOffset : Prop :=
  ∀ (w : Window) (h : HeaderRecord), decodeWindow w = some h →
    (∀ i (_ : i < 4), h.entry[i] = w[i]) ∧ (∀ i (_ : i < 0x30), h.logo[i] = w[0x04 + i]) ∧
    h.sgb = w[0x46] ∧ h.ctype = w[0x47] ∧ h.romsz = w[0x48] ∧ h.ramsz = w[0x49] ∧ h.dest = w[0x4A] ∧
    h.oldlic = w[0x4B] ∧ h.ver = w[0x4C] ∧ h.hck = w[0x4D]

/-- R93, which the spec derives from R91. The round trip of the header window, both ways, with the layout `EncodeWindow`
is defined by: for every well-formed record the encoded window is its fields in order, the title padded with 0x00 bytes,
and decodes to the record; and every window that decodes is the encoding of what it decodes to. -/
def Obligations.HeaderWindowRoundTrip : Prop :=
  (∀ h : HeaderRecord, h.wellFormed = true →
    (encodeWindow h).toList = h.entry.toList ++ h.logo.toList ++
      (h.title ++ List.replicate (16 - h.title.length) 0) ++
      [BitVec.ofNat 8 (h.newlic.toNat / 256), BitVec.ofNat 8 (h.newlic.toNat % 256), h.sgb, h.ctype, h.romsz, h.ramsz,
        h.dest, h.oldlic, h.ver, h.hck, BitVec.ofNat 8 (h.gck.toNat / 256), BitVec.ofNat 8 (h.gck.toNat % 256)] ∧
    decodeWindow (encodeWindow h) = some h) ∧
  (∀ (w : Window) (h : HeaderRecord), decodeWindow w = some h → encodeWindow h = w)

/-- R92, which the spec derives from R91, and R19. `Decode` is injective on the windows it accepts, and every record it
gives is well formed. -/
def Obligations.DecodeIsInjective : Prop :=
  ∀ (w : Window) (h : HeaderRecord), decodeWindow w = some h →
    h.wellFormed = true ∧ ∀ w', decodeWindow w' = some h → w' = w

/-- R90, with R91 and R65. `U.DECODE` answers the decoded record, or `ERR(FORMAT_ERROR)`, in every load state and writes
nothing: that response does not run the failure path. (The last clause, that title bytes of at most 0x7F are answered
`DONE`, rests on the spec's presumed ASCII bound: assumption 14, PRESUMED.) -/
def Obligations.UDecodeAnswersRecord : Prop :=
  (∀ p : Ports, decode ⟨0x40, p⟩ = .ok (.uDecode p.win)) ∧
  ∀ (w : Window) (s : State),
    (∀ h, decodeWindow w = some h → exec (.uDecode w) s = .next { s with out := s.out ++ [.done (.record h)] }) ∧
    (decodeWindow w = none → exec (.uDecode w) s = .next { s with out := s.out ++ [.err .formatError none] }) ∧
    ((∀ i (_ : i < 16), w[0x34 + i].toNat ≤ 0x7F) →
      ∃ h, exec (.uDecode w) s = .next { s with out := s.out ++ [.done (.record h)] })

/-! ## The checksum engine -/

/-- R100, R103. The running sum reduced at every addition is the whole sum reduced once, whatever the order of the 25
bytes, and the unreduced sum is at most 6375. -/
def Obligations.ChecksumIsSumModulo256 : Prop :=
  ∀ (img : Image) (hlen : 0x14C < img.length),
    (ckSum img hlen).toNat = rawSum img % 256 ∧ rawSum img ≤ 6375 ∧
    ∀ l : List Byte, l.Perm ((img.drop 0x134).take 25) → l.foldl (fun acc b => acc + b) 0 = ckSum img hlen

/-- R100. A byte outside 0x134 to 0x14C is not summed: the checksum byte itself, the global checksum, the logo and the
entry vector among them. -/
def Obligations.ChecksumIgnoresOtherBytes : Prop :=
  ∀ (img : Image) (a : Nat) (b : Byte) (hlen : 0x14C < img.length) (hlen' : 0x14C < (img.set a b).length),
    a < 0x134 ∨ 0x14C < a → ckSum (img.set a b) hlen' = ckSum img hlen

/-- R50, which the spec derives from R49 and R46. The checksum engine's absolute addresses and the header window see the
same 25 bytes: the sum is that of window offsets 0x34 to 0x4C. -/
def Obligations.ChecksumSeesWindowBytes : Prop :=
  ∀ (img : Image) (hlen : 0x150 ≤ img.length) (hck : 0x14C < img.length),
    ckSum img hck = (List.range' 0x34 25).foldl (fun acc r => acc + ((memRead img 0x100 0x50 hlen)[r]?.getD 0)) 0

/-- R104, which the spec derives from R101. `Verify` holds exactly when the stored byte is the complement of the sum;
for every image exactly one stored byte passes; changing one summed byte turns a pass into a fail; changing two can
cancel. -/
def Obligations.VerifyIsComplementOfSum : Prop :=
  (∀ (img : Image) (stored : Byte) (hlen : 0x14C < img.length),
    (verify img stored hlen = true ↔ stored = ~~~ ckSum img hlen) ∧
    (verify img stored hlen = true ↔ stored.toNat = 255 - (ckSum img hlen).toNat) ∧
    (verify img stored hlen = true ↔ (ckSum img hlen).toNat + stored.toNat = 255)) ∧
  (∀ (img : Image) (hlen : 0x14C < img.length), ∃ stored, verify img stored hlen = true ∧
    ∀ stored', verify img stored' hlen = true → stored' = stored) ∧
  (∀ (img : Image) (stored : Byte) (hlen : 0x14C < img.length) (a : Nat) (b : Byte)
    (hlen' : 0x14C < (img.set a b).length), 0x134 ≤ a → a ≤ 0x14C → img[a]? ≠ some b →
    verify img stored hlen = true → verify (img.set a b) stored hlen' = false) ∧
  (∃ (img : Image) (stored : Byte) (hlen : 0x14C < img.length) (a a' : Nat) (b b' : Byte)
    (hlen' : 0x14C < ((img.set a b).set a' b').length), 0x134 ≤ a ∧ a < a' ∧ a' ≤ 0x14C ∧ img[a]? ≠ some b ∧
    img[a']? ≠ some b' ∧ verify img stored hlen = true ∧ verify ((img.set a b).set a' b') stored hlen' = true)

/-- R102 with R101. `U.VERIFY` answers the test of its `ARG` against the image, or `REFUSED` when the image has no
offset 0x14C; it writes nothing, `CKOK` included, and is legal in every load state. -/
def Obligations.UVerifyAnswersTest : Prop :=
  (∀ p : Ports, decode ⟨0x41, p⟩ = .ok (.uVerify p.img p.arg)) ∧
  ∀ (img : Image) (arg : Byte) (s : State),
    (0x14D ≤ img.length → exec (.uVerify img arg) s =
      .next { s with out := s.out ++ [.done (.bit (decide ((rawSum img % 256 + arg.toNat + 1) % 256 = 0)))] }) ∧
    (img.length < 0x14D → exec (.uVerify img arg) s = .next { s with out := s.out ++ [.refused] })

/-! ## The lookup ROMs -/

/-- R110, R111, R112. `U.TYPENAME` answers the table's entry for codes 0x00 to 0x21 and the sentinel for the rest;
entry 0x00 is "ROM ONLY" and no entry is the sentinel; nothing is written. -/
def Obligations.UTypenameAnswersTableEntry : Prop :=
  (∀ p : Ports, decode ⟨0x42, p⟩ = .ok (.uTypename p.arg)) ∧
  ∀ (arg : Byte) (s : State),
    (∀ hc : arg.toNat < 0x22, exec (.uTypename arg) s =
        .next { s with out := s.out ++ [.done (.name s.cfg.typeRom[arg.toNat])] } ∧
      s.cfg.typeRom[arg.toNat] ≠ ascii "UNKNOWN") ∧
    (arg = 0x00 → exec (.uTypename arg) s = .next { s with out := s.out ++ [.done (.name (ascii "ROM ONLY"))] }) ∧
    (0x22 ≤ arg.toNat → exec (.uTypename arg) s = .next { s with out := s.out ++ [.done (.name (ascii "UNKNOWN"))] })

/-- R113, R114, R115. `U.LICNAME` in both modes of `LIC_BOUND_MODE`: under `PARITY` a code of 0x22 or more is
`UNKNOWN`; every other code, and under `FIXED` every code, gives its entry, or `UNKNOWN` if it has none. -/
def Obligations.ULicnameAnswersByMode : Prop :=
  (∀ p : Ports, decode ⟨0x43, p⟩ = .ok (.uLicname p.arg)) ∧
  ∀ (arg : Byte) (s : State),
    (s.cfg.licBoundMode = .parity → 0x22 ≤ arg.toNat →
      exec (.uLicname arg) s = .next { s with out := s.out ++ [.done (.name (ascii "UNKNOWN"))] }) ∧
    (∀ name, s.cfg.licBoundMode = .fixed ∨ arg.toNat < 0x22 → (arg, name) ∈ s.cfg.licRom →
      exec (.uLicname arg) s = .next { s with out := s.out ++ [.done (.name name)] }) ∧
    ((∀ name, (arg, name) ∉ s.cfg.licRom) →
      exec (.uLicname arg) s = .next { s with out := s.out ++ [.done (.name (ascii "UNKNOWN"))] })

/-- R114. The two modes of `LIC_BOUND_MODE` agree on every code below 0x22 and on every code without an entry; on a code
of 0x22 or more that has one, `PARITY` gives the sentinel and `FIXED` the entry. -/
def Obligations.LicenseeModesDifferOnlyFrom0x22 : Prop :=
  ∀ (cfg : Config) (code : Byte),
    (code.toNat < 0x22 ∨ (∀ name, (code, name) ∉ cfg.licRom) →
      licNameOf { cfg with licBoundMode := .parity } code = licNameOf { cfg with licBoundMode := .fixed } code) ∧
    (∀ name, 0x22 ≤ code.toNat → (code, name) ∈ cfg.licRom →
      licNameOf { cfg with licBoundMode := .parity } code = ascii "UNKNOWN" ∧
      licNameOf { cfg with licBoundMode := .fixed } code = name)

/-- R116, R117. `U.ROMKB` answers `32 * 2^arg`, never truncated, and writes nothing. -/
def Obligations.URomkbAnswersShift : Prop :=
  (∀ p : Ports, decode ⟨0x44, p⟩ = .ok (.uRomkb p.arg)) ∧
  (∀ (arg : Byte) (s : State),
    exec (.uRomkb arg) s = .next { s with out := s.out ++ [.done (.nat (32 * 2 ^ arg.toNat))] }) ∧
  ∀ s : State, exec (.uRomkb 0xFF) s = .next { s with out := s.out ++ [.done (.nat (2 ^ 260))] }

/-! ## The loader -/

/-- R120, R197. CLEAR in every load state: everything but `REPORT` as after reset. In a sound `EMPTY` state it changes
nothing but the response port. -/
def Obligations.ClearEmptiesAllButReport : Prop :=
  (∀ p : Ports, decode ⟨0x00, p⟩ = .ok .clear) ∧
  (∀ s : State, exec .clear s = .next { s with
    cart := { st := .empty, err := .none, cause := none, fname := none, raw := none, hdr := none, typeName := none,
              licName := none, romKb := none, ckOk := none, report := s.cart.report },
    out := s.out ++ [.done .nothing] }) ∧
  (∀ s : State, s.cart.EmptyClause → exec .clear s = .next { s with out := s.out ++ [.done .nothing] })

/-- R121 to R127, R94. LOAD from `EMPTY` of a long enough image whose title bytes are ASCII (by the presumed bound:
assumption 14): the header decodes, every register gets the value its step gives it, one summary is reported, and the
response is `DONE`; the configuration and the command port are unchanged, and so is `CAUSE`, which step 6 does not list
(assumption 18). The checksum's outcome plays no part in whether it succeeds. -/
def Obligations.LoadCommitsImage : Prop :=
  ∀ (path : Path) (img : Image) (s : State) (hlen : 0x150 ≤ img.length) (hck : 0x14C < img.length),
    s.cart.st = .empty → TitleAscii img →
    ∃ h, decodeWindow (memRead img 0x100 0x50 hlen) = some h ∧
      exec (.load path .ok img) s = .next { s with
        cart := { st := .loaded, err := .none, cause := s.cart.cause, fname := some path, raw := some img,
                  hdr := some h, typeName := some (typeNameOf s.cfg h.ctype), licName := some (licNameOf s.cfg h.oldlic),
                  romKb := some (32 * 2 ^ h.romsz.toNat), ckOk := some (verify img h.hck hck),
                  report := s.cart.report ++
                    [{ title := h.title, typeCode := h.ctype, typeName := typeNameOf s.cfg h.ctype,
                       romKb := 32 * 2 ^ h.romsz.toNat, ramSizeCode := h.ramsz, licCode := h.oldlic,
                       licName := licNameOf s.cfg h.oldlic, version := h.ver, checksumByte := h.hck,
                       checksumOk := verify img h.hck hck }] },
        out := s.out ++ [.done .nothing] }

/-- R126, R131, with R124, and R105, which the spec derives from R101 and R126. After a LOAD that succeeds `CKOK` is the
test of the image's own byte at 0x14D; the load ends `LOADED` with the response `DONE` whether the test passes or not.
(That a title of bytes at most 0x7F lets the load succeed rests on the spec's presumed ASCII bound: assumption 14,
PRESUMED.) -/
def Obligations.ChecksumMismatchStillLoads : Prop :=
  ∀ (path : Path) (img : Image) (s : State) (stored : Byte),
    s.cart.st = .empty → 0x150 ≤ img.length → TitleAscii img → img[0x14D]? = some stored →
    ∃ t, exec (.load path .ok img) s = .next t ∧ t.cart.st = .loaded ∧ t.out = s.out ++ [.done .nothing] ∧
      t.cart.ckOk = some (decide ((rawSum img % 256 + stored.toNat + 1) % 256 = 0))

/-- R179, R180, with the conditions of R170 and R122 to R124 and their order of R178. The failure path of LOAD from
`EMPTY`: `ST`, `ERR` and `CAUSE` are written, nothing else, and the response is `ERR`. An absent file or an I/O fault is
raised whatever the image, a short image whatever its bytes, and the title is tested last. (The `FORMAT_ERROR` clause
rests on the spec's presumed ASCII bound: assumption 14, PRESUMED.) -/
def Obligations.LoadFailurePath : Prop :=
  ∀ (path : Path) (img : Image) (s : State), s.cart.st = .empty →
    exec (.load path .notFound img) s = .next { s with
      cart := { s.cart with st := .failed, err := .failed .notFound, cause := none },
      out := s.out ++ [.err .notFound none] } ∧
    (∀ c, exec (.load path (.ioFault c) img) s = .next { s with
      cart := { s.cart with st := .failed, err := .failed .ioError, cause := some c },
      out := s.out ++ [.err .ioError (some c)] }) ∧
    (img.length < 0x150 → exec (.load path .ok img) s = .next { s with
      cart := { s.cart with st := .failed, err := .failed .truncatedImage, cause := none },
      out := s.out ++ [.err .truncatedImage none] }) ∧
    (0x150 ≤ img.length → ¬ TitleAscii img → exec (.load path .ok img) s = .next { s with
      cart := { s.cart with st := .failed, err := .failed .formatError, cause := none },
      out := s.out ++ [.err .formatError none] })

/-- R133. A LOAD outside `EMPTY` is answered `REFUSED` and changes nothing, not even `REPORT`. -/
def Obligations.LoadOutsideEmptyIsRefused : Prop :=
  ∀ (path : Path) (src : Src) (img : Image) (s : State), s.cart.st ≠ .empty →
    exec (.load path src img) s = .next { s with out := s.out ++ [.refused] }

/-- R74, R181. The retry: from any state whatever, a CLEAR and then a LOAD of a good image end `LOADED`. (The port as a
queue is assumption 1; that a title of bytes at most 0x7F is good rests on assumption 14.) -/
def Obligations.ClearThenLoadSucceeds : Prop :=
  ∀ (path : Path) (img : Image) (s : State) (rest : List Request),
    0x150 ≤ img.length → TitleAscii img → s.cmds = encode .clear :: encode (.load path .ok img) :: rest →
    ∃ t, Host.Core.run Sys2Proof.core 2 s = .next t ∧ t.cart.st = .loaded ∧ t.cart.fname = some path ∧
      t.cart.raw = some img ∧ t.cmds = rest ∧ t.out = s.out ++ [.done .nothing, .done .nothing]

/-- R134. LOAD depends only on its operands, the configuration and `ST`: from two sound `EMPTY` states of one
configuration the end states agree but for `REPORT`, which grows by the same records. -/
def Obligations.LoadDependsOnlyOnOperands : Prop :=
  ∀ (path : Path) (src : Src) (img : Image) (s s' t t' : State),
    s.cart.EmptyClause → s'.cart.EmptyClause → s.cfg = s'.cfg →
    exec (.load path src img) s = .next t → exec (.load path src img) s' = .next t' →
    { t.cart with report := [] } = { t'.cart with report := [] } ∧
    ∃ ms, t.cart.report = s.cart.report ++ ms ∧ t'.cart.report = s'.cart.report ++ ms

/-- R48. The header logic reads nothing of the image outside 0x100 to 0x14F: two images that agree there load to states
that agree in everything but `RAW`, and get the same response. -/
def Obligations.LoadReadsOnlyHeaderBytes : Prop :=
  ∀ (path : Path) (img img' : Image) (s : State),
    0x150 ≤ img.length → 0x150 ≤ img'.length → (∀ a, 0x100 ≤ a → a < 0x150 → img[a]? = img'[a]?) →
    ∃ t t', exec (.load path .ok img) s = .next t ∧ exec (.load path .ok img') s = .next t' ∧
      { t with cart := { t.cart with raw := none } } = { t' with cart := { t'.cart with raw := none } }

/-! ## The accessors -/

/-- R137, R34. `RD.STATUS` in every state: `[1:0]` is `ST`, `[4:2]` is `ERR`, `[5]` is 1 exactly when an image is loaded
and its checksum passed, `[7:6]` is 0. -/
def Obligations.StatusIsPacked : Prop :=
  (∀ p : Ports, decode ⟨0x20, p⟩ = .ok .rdStatus) ∧
  ∀ s : State, ∃ v : Byte, exec .rdStatus s = .next { s with out := s.out ++ [.done (.byte v)] } ∧
    (v.extractLsb' 0 2).toNat = (match s.cart.st with | .empty => 0 | .loaded => 1 | .failed => 2) ∧
    (v.extractLsb' 2 3).toNat = (match s.cart.err with
      | .none => 0 | .failed .notFound => 1 | .failed .ioError => 2 | .failed .truncatedImage => 3
      | .failed .formatError => 4) ∧
    ((v.extractLsb' 5 1).toNat = 1 ↔ s.cart.st = .loaded ∧ s.cart.ckOk = some true) ∧
    (v.extractLsb' 6 2).toNat = 0

/-- R34. In a sound state `STATUS` is one of its seven legal bytes, each in just the states the rule names. -/
def Obligations.StatusIsLegalByte : Prop :=
  ∀ s : State, s.Inv →
    (s.cart.status = 0x00 ∧ s.cart.st = .empty) ∨
    (s.cart.status = 0x01 ∧ s.cart.st = .loaded ∧ s.cart.ckOk = some false) ∨
    (s.cart.status = 0x21 ∧ s.cart.st = .loaded ∧ s.cart.ckOk = some true) ∨
    (s.cart.status = 0x06 ∧ s.cart.st = .failed ∧ s.cart.err = .failed .notFound) ∨
    (s.cart.status = 0x0A ∧ s.cart.st = .failed ∧ s.cart.err = .failed .ioError) ∨
    (s.cart.status = 0x0E ∧ s.cart.st = .failed ∧ s.cart.err = .failed .truncatedImage) ∨
    (s.cart.status = 0x12 ∧ s.cart.st = .failed ∧ s.cart.err = .failed .formatError)

/-- R138. `RD.CAUSE` answers the cause while `ERR = IO_ERROR`, and `ABSENT` otherwise; in a sound state with
`ERR = IO_ERROR` there is one. After a LOAD with an I/O fault it is the cause the host gave. -/
def Obligations.CauseIsReadAfterIoError : Prop :=
  (∀ p : Ports, decode ⟨0x21, p⟩ = .ok .rdCause) ∧
  (∀ (s : State) (c : Cause), s.cart.err = .failed .ioError → s.cart.cause = some c →
    exec .rdCause s = .next { s with out := s.out ++ [.done (.cause c)] }) ∧
  (∀ s : State, s.Inv → s.cart.err = .failed .ioError →
    ∃ c, exec .rdCause s = .next { s with out := s.out ++ [.done (.cause c)] }) ∧
  (∀ s : State, s.cart.err ≠ .failed .ioError → exec .rdCause s = .next { s with out := s.out ++ [.absent] }) ∧
  (∀ (path : Path) (c : Cause) (img : Image) (s t : State), s.cart.st = .empty →
    exec (.load path (.ioFault c) img) s = .next t →
    exec .rdCause t = .next { t with out := t.out ++ [.done (.cause c)] })

/-- R139, R140, R141, R136, R55. The file name and raw image accessors: the register while an image is loaded,
`REFUSED` for an address outside the image, `ABSENT` when none is loaded. After a LOAD that succeeds `RD.FNAME` answers
its path, `RD.IMGLEN` the image's length, at least 0x150, and `RD.IMGB` every byte as the host presented it. -/
def Obligations.LoadedImageReadsBack : Prop :=
  (∀ p : Ports, decode ⟨0x22, p⟩ = .ok .rdFname ∧ decode ⟨0x23, p⟩ = .ok .rdImglen ∧
    decode ⟨0x24, p⟩ = .ok (.rdImgb p.addr)) ∧
  (∀ (s : State) (path : Path) (raw : Image), s.cart.st = .loaded → s.cart.fname = some path → s.cart.raw = some raw →
    exec .rdFname s = .next { s with out := s.out ++ [.done (.path path)] } ∧
    exec .rdImglen s = .next { s with out := s.out ++ [.done (.nat raw.length)] } ∧
    (∀ a (ha : a < raw.length), exec (.rdImgb a) s = .next { s with out := s.out ++ [.done (.byte raw[a])] }) ∧
    (∀ a, raw.length ≤ a → exec (.rdImgb a) s = .next { s with out := s.out ++ [.refused] })) ∧
  (∀ (s : State) (a : Nat), s.cart.st ≠ .loaded →
    exec .rdFname s = .next { s with out := s.out ++ [.absent] } ∧
    exec .rdImglen s = .next { s with out := s.out ++ [.absent] } ∧
    exec (.rdImgb a) s = .next { s with out := s.out ++ [.absent] }) ∧
  (∀ (path : Path) (src : Src) (img : Image) (s t : State),
    exec (.load path src img) s = .next t → s.cart.st = .empty → t.cart.st = .loaded →
    0x150 ≤ img.length ∧
    exec .rdFname t = .next { t with out := t.out ++ [.done (.path path)] } ∧
    exec .rdImglen t = .next { t with out := t.out ++ [.done (.nat img.length)] } ∧
    (∀ a (ha : a < img.length), exec (.rdImgb a) t = .next { t with out := t.out ++ [.done (.byte img[a])] }) ∧
    (∀ a, img.length ≤ a → exec (.rdImgb a) t = .next { t with out := t.out ++ [.refused] }))

/-- R142, R143, R144. The accessors of the three byte-array registers. In a sound state with an image loaded (R38) they
answer the image's bytes in ascending address order, the title without its trailing 0x00 bytes. -/
def Obligations.ByteArrayAccessors : Prop :=
  ReadsHeaderAs 0x25 .rdEntry (fun h => .bytes h.entry.toList) ∧
  ReadsHeaderAs 0x26 .rdLogo (fun h => .bytes h.logo.toList) ∧
  ReadsHeaderAs 0x27 .rdTitle (fun h => .bytes h.title) ∧
  ∀ (s : State) (img : Image), s.Inv → s.cart.raw = some img →
    exec .rdEntry s = .next { s with out := s.out ++ [.done (.bytes ((img.drop 0x100).take 4))] } ∧
    exec .rdLogo s = .next { s with out := s.out ++ [.done (.bytes ((img.drop 0x104).take 0x30))] } ∧
    ∃ title k, exec .rdTitle s = .next { s with out := s.out ++ [.done (.bytes title)] } ∧
      title ++ List.replicate k 0 = (img.drop 0x134).take 16 ∧ title.getLast? ≠ some 0

/-- R145, R154. The accessors of the two 16-bit registers. In a sound state with an image loaded (R38) they answer the
image's two bytes assembled big-endian. -/
def Obligations.HalfAccessors : Prop :=
  ReadsHeaderAs 0x28 .rdNewlic (fun h => .half h.newlic) ∧ ReadsHeaderAs 0x31 .rdGck (fun h => .half h.gck) ∧
  ∀ (s : State) (img : Image), s.Inv → s.cart.raw = some img →
    ∀ (i : Instr) (a : Nat), (i, a) ∈ [(Instr.rdNewlic, 0x144), (.rdGck, 0x14E)] →
      ∃ hi lo v, img[a]? = some hi ∧ img[a + 1]? = some lo ∧ v.toNat = hi.toNat * 256 + lo.toNat ∧
        exec i s = .next { s with out := s.out ++ [.done (.half v)] }

/-- R146 to R153. The accessors of the eight single-byte registers. In a sound state with an image loaded (R38) they
answer the image's bytes at the offsets of the header map (R47). -/
def Obligations.SingleByteAccessors : Prop :=
  (ReadsHeaderAs 0x29 .rdSgb (fun h => .byte h.sgb) ∧ ReadsHeaderAs 0x2A .rdCtype (fun h => .byte h.ctype) ∧
    ReadsHeaderAs 0x2B .rdRomsz (fun h => .byte h.romsz) ∧ ReadsHeaderAs 0x2C .rdRamsz (fun h => .byte h.ramsz) ∧
    ReadsHeaderAs 0x2D .rdDest (fun h => .byte h.dest) ∧ ReadsHeaderAs 0x2E .rdOldlic (fun h => .byte h.oldlic) ∧
    ReadsHeaderAs 0x2F .rdVer (fun h => .byte h.ver) ∧ ReadsHeaderAs 0x30 .rdHck (fun h => .byte h.hck)) ∧
  ∀ (s : State) (img : Image), s.Inv → s.cart.raw = some img →
    ∀ (i : Instr) (a : Nat), (i, a) ∈ [(Instr.rdSgb, 0x146), (.rdCtype, 0x147), (.rdRomsz, 0x148), (.rdRamsz, 0x149),
        (.rdDest, 0x14A), (.rdOldlic, 0x14B), (.rdVer, 0x14C), (.rdHck, 0x14D)] →
      ∃ b, img[a]? = some b ∧ exec i s = .next { s with out := s.out ++ [.done (.byte b)] }

/-- R155 to R158. The accessors of the derived registers: in a sound state each answers the function of the header
registers (for `CKOK`, and of the image) that its rule names. -/
def Obligations.DerivedAccessors : Prop :=
  ReadsDerivedAs 0x32 .rdTypename (fun cfg _ h => .name (typeNameOf cfg h.ctype)) ∧
  ReadsDerivedAs 0x33 .rdLicname (fun cfg _ h => .name (licNameOf cfg h.oldlic)) ∧
  ReadsDerivedAs 0x34 .rdRomkb (fun _ _ h => .nat (32 * 2 ^ h.romsz.toNat)) ∧
  ReadsDerivedAs 0x35 .rdCkok
    (fun _ img h => .bit (decide ((rawSum img % 256 + h.hck.toNat + 1) % 256 = 0)))

/-- R159, R130. `RD.SUMMARY` answers the ten fields rebuilt from the registers, in a sound state the newest record of
`REPORT`; `ABSENT` when no image is loaded. -/
def Obligations.SummaryIsRebuilt : Prop :=
  (∀ p : Ports, decode ⟨0x36, p⟩ = .ok .rdSummary) ∧
  (∀ (s : State) (img : Image) (h : HeaderRecord), s.Inv → s.ReportInv → s.cart.st = .loaded →
    s.cart.raw = some img → s.cart.hdr = some h →
    ∃ m : Summary, exec .rdSummary s = .next { s with out := s.out ++ [.done (.summary m)] } ∧
      s.cart.report.getLast? = some m ∧
      m = { title := h.title, typeCode := h.ctype, typeName := typeNameOf s.cfg h.ctype,
            romKb := 32 * 2 ^ h.romsz.toNat, ramSizeCode := h.ramsz, licCode := h.oldlic,
            licName := licNameOf s.cfg h.oldlic, version := h.ver, checksumByte := h.hck,
            checksumOk := decide ((rawSum img % 256 + h.hck.toNat + 1) % 256 = 0) }) ∧
  (∀ s : State, s.cart.st ≠ .loaded → exec .rdSummary s = .next { s with out := s.out ++ [.absent] })

/-! ## The whole machine -/

/-- R38, which the spec derives from R11, R12, R15, R16, R121 and R179. The invariant holds at reset. -/
def Obligations.ResetIsSound : Prop :=
  State.reset.Inv ∧ State.reset.ReportInv

/-- R38, which the spec derives from R11, R12, R15, R16, R121 and R179. Every step keeps the invariant: the registers,
the load state, the failure register and the image stay tied together as the rule's three clauses say, and exactly one
of the clauses holds. -/
def Obligations.StepKeepsSoundState : Prop :=
  ∀ s t : State, s.Inv → step s = .next t →
    t.Inv ∧ ¬ (t.cart.EmptyClause ∧ t.cart.LoadedClause t.cfg) ∧ ¬ (t.cart.EmptyClause ∧ t.cart.FailedClause) ∧
      ¬ (t.cart.LoadedClause t.cfg ∧ t.cart.FailedClause)

/-- R159, R35. Every step keeps the tie between the newest report record and the registers. -/
def Obligations.StepKeepsReportTie : Prop :=
  ∀ s t : State, s.ReportInv → step s = .next t → t.ReportInv

/-- R135, R90, R102, R112, R115, R117, R183. Only CLEAR and LOAD write architectural state: every other command leaves
the whole of it as it was, and every command leaves the configuration and the command port alone. -/
def Obligations.OnlyClearAndLoadWriteState : Prop :=
  ∀ (i : Instr) (s t : State), exec i s = .next t →
    t.cfg = s.cfg ∧ t.cmds = s.cmds ∧
    (t.cart = s.cart ∨ i = .clear ∨ ∃ path src img, i = .load path src img)

/-- R181, R133, R11. A step that changes the architectural state of a loaded or failed block is a CLEAR, and leaves it
`EMPTY`. -/
def Obligations.OnlyClearLeavesTerminalState : Prop :=
  ∀ s t : State, step s = .next t → s.cart.st ≠ .empty → t.cart ≠ s.cart →
    ∃ r rest, s.cmds = r :: rest ∧ decode r = .ok .clear ∧ t.cart.st = .empty

/-- R35. `REPORT` only ever grows: a step leaves it alone, or it is a LOAD from `EMPTY` that ends `LOADED` and appends
exactly one record; and such a LOAD always does. -/
def Obligations.ReportGrowsOnlyByLoad : Prop :=
  ∀ s t : State, step s = .next t →
    (t.cart.report = s.cart.report ∧ ¬ (s.cart.st = .empty ∧ t.cart.st = .loaded)) ∨
    (s.cart.st = .empty ∧ t.cart.st = .loaded ∧ (∃ m, t.cart.report = s.cart.report ++ [m]) ∧
      ∃ r rest path img, s.cmds = r :: rest ∧ decode r = .ok (.load path .ok img))
end

