-- ==== Sys2Proof/Laws/Config.lean ====
section
/-! SUPPORT. The open configuration loses nothing: the chip's licensee lookup is the open partial function. -/

namespace Sys2Proof.Machine

/-- The entry a sparse table built from a partial function holds for a code. -/
theorem lookup_filterMap (f : Byte → Option DisplayName) (codes : List Byte) (c : Byte) :
    (codes.filterMap fun c => (f c).map fun n => (c, n)).lookup c = if c ∈ codes then f c else none := by
  induction codes with
  | nil => simp
  | cons x xs ih =>
    by_cases hcx : c = x
    · subst hcx
      cases hf : f c with
      | none => simp [hf, ih]
      | some n => simp [hf]
    · cases hf : f x with
      | none => simp [hf, ih, hcx]
      | some n =>
        have : (c == x) = false := by simpa using hcx
        simp [hf, ih, hcx, List.lookup, this]

theorem mem_allBytes (c : Byte) : c ∈ allBytes := by
  refine List.mem_map.mpr ⟨c.toNat, List.mem_range.mpr c.isLt, ?_⟩
  simp

/-- R113, D12: an entry of the chip's licensee table is whatever the open partial function gives. -/
theorem licEntry_chip (c : Byte) : licEntry Config.chip c = Config.openLicName c := by
  unfold licEntry Config.chip
  rw [lookup_filterMap, if_pos (mem_allBytes c)]

end Sys2Proof.Machine
end

