-- ==== Sys2Proof/Laws/Memory.lean ====
section
/-! SUPPORT. What `memRead`, slices of a window and the cell view of a byte sequence answer. -/

namespace Sys2Proof.Machine

@[simp] theorem memRead_toList (img : Image) (a n : Nat) (h : a + n ≤ img.length) :
    (memRead img a n h).toList = (img.drop a).take n := rfl

/-- Element `i` of a read is the byte at address `a + i` (R42). -/
theorem memRead_getElem (img : Image) (a n : Nat) (h : a + n ≤ img.length) (i : Nat) (hi : i < n) :
    (memRead img a n h)[i] = img[a + i] := by
  simp [memRead]

@[simp] theorem windowSlice_toList (w : Window) (off n : Nat) (h : off + n ≤ 0x50) :
    (windowSlice w off n h).toList = (w.toList.drop off).take n := rfl

/-- Element `i` of a slice is window byte `off + i` (R44, R61). -/
theorem windowSlice_getElem (w : Window) (off n : Nat) (h : off + n ≤ 0x50) (i : Nat) (hi : i < n) :
    (windowSlice w off n h)[i] = w[off + i] := by
  simp [windowSlice]

/-- Window byte `r` of an image is its byte at `0x100 + r` (R49). -/
theorem imageWindow_getElem (img : Image) (h : hdrEnd ≤ img.length) (r : Nat) (hr : r < hdrLen) :
    (imageWindow img h)[r] = img[hdrBase + r]'(by simp only [hdrEnd, hdrBase, hdrLen] at *; omega) :=
  memRead_getElem img hdrBase hdrLen h r hr

@[simp] theorem titleRegion_length (w : Window) : (titleRegion w).length = titleLen := by
  simp [titleRegion, titleLen]

/-- `{hi, lo}` as a number (R8, R63). -/
theorem bigEndian_toNat (hi lo : Byte) : (bigEndian hi lo).toNat = hi.toNat * 256 + lo.toNat := by
  simp only [bigEndian, BitVec.toNat_append]
  rw [Nat.shiftLeft_eq, ← Nat.shiftLeft_eq, ← Nat.shiftLeft_add_eq_or_of_lt lo.isLt, Nat.shiftLeft_eq]

theorem keptLen_le (t : List Byte) : keptLen t ≤ t.length := by
  induction t with
  | nil => simp [keptLen]
  | cons b bs ih =>
    simp only [keptLen, List.length_cons]
    split
    · split <;> omega
    · omega

/-- What `Decode` answers, if it answers a record (R91). -/
theorem decodeWindow_isSome_iff (w : Window) :
    (decodeWindow w).isSome = true ↔ ∀ b ∈ titleRegion w, b.toNat ≤ 0x7F := by
  unfold decodeWindow
  split <;> simp_all [isAscii]

theorem Memory.cellsFrom_addr (base : Nat) (img : Image) :
    ∀ c ∈ Memory.cellsFrom base img, base ≤ c.1 := by
  induction img generalizing base with
  | nil => simp [Memory.cellsFrom]
  | cons b bs ih =>
    intro c hc
    rcases List.mem_cons.mp hc with rfl | hc
    · exact Nat.le_refl _
    · exact Nat.le_of_succ_le (ih (base + 1) c hc)

/-- The cells of a byte sequence are in the canonical form. -/
theorem Memory.cellsFrom_wf (base : Nat) (img : Image) : Memory.wf (Memory.cellsFrom base img) := by
  induction img generalizing base with
  | nil => exact List.Pairwise.nil
  | cons b bs ih =>
    exact List.Pairwise.cons (fun c hc => Memory.cellsFrom_addr (base + 1) bs c hc) (ih (base + 1))

theorem Memory.cells_wf (img : Image) : Memory.wf (Memory.cells img) := Memory.cellsFrom_wf 0 img

theorem Memory.cellsFrom_mem_iff (base : Nat) (img : Image) (a : Nat) (b : Byte) :
    (a, b) ∈ Memory.cellsFrom base img ↔ ∃ i, a = base + i ∧ img[i]? = some b := by
  induction img generalizing base with
  | nil => simp [Memory.cellsFrom]
  | cons x xs ih =>
    simp only [Memory.cellsFrom, List.mem_cons, Prod.mk.injEq, ih]
    constructor
    · rintro (⟨rfl, rfl⟩ | ⟨i, rfl, hi⟩)
      · exact ⟨0, rfl, rfl⟩
      · exact ⟨i + 1, by omega, hi⟩
    · rintro ⟨i, rfl, hi⟩
      cases i with
      | zero => exact .inl ⟨rfl, by simpa using hi.symm⟩
      | succ i => exact .inr ⟨i, by omega, hi⟩

/-- The cell view holds exactly the bytes of the sequence, each at its address (R41): equal cells are equal
sequences, and an address outside the sequence has no cell. -/
theorem Memory.cells_mem_iff (img : Image) (a : Nat) (b : Byte) :
    (a, b) ∈ Memory.cells img ↔ img[a]? = some b := by
  simp [Memory.cells, Memory.cellsFrom_mem_iff]

end Sys2Proof.Machine
end

