-- ==== Sys2Proof/Laws/State.lean ====
section
/-! SUPPORT. One lemma per field per update of the state, so that no later proof unfolds a record update. -/

namespace Sys2Proof.Machine

@[simp] theorem State.respond_cart (r : Response) (s : State) : (s.respond r).cart = s.cart := rfl
@[simp] theorem State.respond_cfg (r : Response) (s : State) : (s.respond r).cfg = s.cfg := rfl
@[simp] theorem State.respond_cmds (r : Response) (s : State) : (s.respond r).cmds = s.cmds := rfl
@[simp] theorem State.respond_out (r : Response) (s : State) : (s.respond r).out = s.out ++ [r] := rfl

@[simp] theorem State.setCart_cart (c : Cartridge) (s : State) : (s.setCart c).cart = c := rfl
@[simp] theorem State.setCart_cfg (c : Cartridge) (s : State) : (s.setCart c).cfg = s.cfg := rfl
@[simp] theorem State.setCart_cmds (c : Cartridge) (s : State) : (s.setCart c).cmds = s.cmds := rfl
@[simp] theorem State.setCart_out (c : Cartridge) (s : State) : (s.setCart c).out = s.out := rfl

@[simp] theorem State.raise_cart (f : Failure) (s : State) : (s.raise f).cart = s.cart.fail f := rfl
@[simp] theorem State.raise_cfg (f : Failure) (s : State) : (s.raise f).cfg = s.cfg := rfl
@[simp] theorem State.raise_cmds (f : Failure) (s : State) : (s.raise f).cmds = s.cmds := rfl
@[simp] theorem State.raise_out (f : Failure) (s : State) : (s.raise f).out = s.out ++ [.err f.kind f.info] := rfl

@[simp] theorem Cartridge.fail_st (f : Failure) (c : Cartridge) : (c.fail f).st = .failed := rfl
@[simp] theorem Cartridge.fail_err (f : Failure) (c : Cartridge) : (c.fail f).err = .failed f.kind := rfl
@[simp] theorem Cartridge.fail_cause (f : Failure) (c : Cartridge) : (c.fail f).cause = f.info := rfl
@[simp] theorem Cartridge.fail_fname (f : Failure) (c : Cartridge) : (c.fail f).fname = c.fname := rfl
@[simp] theorem Cartridge.fail_raw (f : Failure) (c : Cartridge) : (c.fail f).raw = c.raw := rfl
@[simp] theorem Cartridge.fail_hdr (f : Failure) (c : Cartridge) : (c.fail f).hdr = c.hdr := rfl
@[simp] theorem Cartridge.fail_typeName (f : Failure) (c : Cartridge) : (c.fail f).typeName = c.typeName := rfl
@[simp] theorem Cartridge.fail_licName (f : Failure) (c : Cartridge) : (c.fail f).licName = c.licName := rfl
@[simp] theorem Cartridge.fail_romKb (f : Failure) (c : Cartridge) : (c.fail f).romKb = c.romKb := rfl
@[simp] theorem Cartridge.fail_ckOk (f : Failure) (c : Cartridge) : (c.fail f).ckOk = c.ckOk := rfl
@[simp] theorem Cartridge.fail_report (f : Failure) (c : Cartridge) : (c.fail f).report = c.report := rfl

@[simp] theorem Cartridge.clear_st (c : Cartridge) : c.clear.st = .empty := rfl
@[simp] theorem Cartridge.clear_err (c : Cartridge) : c.clear.err = .none := rfl
@[simp] theorem Cartridge.clear_cause (c : Cartridge) : c.clear.cause = none := rfl
@[simp] theorem Cartridge.clear_fname (c : Cartridge) : c.clear.fname = none := rfl
@[simp] theorem Cartridge.clear_raw (c : Cartridge) : c.clear.raw = none := rfl
@[simp] theorem Cartridge.clear_hdr (c : Cartridge) : c.clear.hdr = none := rfl
@[simp] theorem Cartridge.clear_typeName (c : Cartridge) : c.clear.typeName = none := rfl
@[simp] theorem Cartridge.clear_licName (c : Cartridge) : c.clear.licName = none := rfl
@[simp] theorem Cartridge.clear_romKb (c : Cartridge) : c.clear.romKb = none := rfl
@[simp] theorem Cartridge.clear_ckOk (c : Cartridge) : c.clear.ckOk = none := rfl
@[simp] theorem Cartridge.clear_report (c : Cartridge) : c.clear.report = c.report := rfl

section
variable (path : Path) (img : Image) (h : HeaderRecord) (tn ln : DisplayName) (kb : Nat) (ok : Bool) (c : Cartridge)

@[simp] theorem Cartridge.commit_st : (c.commit path img h tn ln kb ok).st = .loaded := rfl
@[simp] theorem Cartridge.commit_err : (c.commit path img h tn ln kb ok).err = .none := rfl
@[simp] theorem Cartridge.commit_cause : (c.commit path img h tn ln kb ok).cause = c.cause := rfl
@[simp] theorem Cartridge.commit_fname : (c.commit path img h tn ln kb ok).fname = some path := rfl
@[simp] theorem Cartridge.commit_raw : (c.commit path img h tn ln kb ok).raw = some img := rfl
@[simp] theorem Cartridge.commit_hdr : (c.commit path img h tn ln kb ok).hdr = some h := rfl
@[simp] theorem Cartridge.commit_typeName : (c.commit path img h tn ln kb ok).typeName = some tn := rfl
@[simp] theorem Cartridge.commit_licName : (c.commit path img h tn ln kb ok).licName = some ln := rfl
@[simp] theorem Cartridge.commit_romKb : (c.commit path img h tn ln kb ok).romKb = some kb := rfl
@[simp] theorem Cartridge.commit_ckOk : (c.commit path img h tn ln kb ok).ckOk = some ok := rfl
@[simp] theorem Cartridge.commit_report :
    (c.commit path img h tn ln kb ok).report = c.report ++ [summaryOf h tn ln kb ok] := rfl

/-- After a commit the registers give back the summary that was reported (R159). -/
theorem Cartridge.commit_summary :
    (c.commit path img h tn ln kb ok).summary = some (summaryOf h tn ln kb ok) := rfl

end

@[simp] theorem Cartridge.whenLoaded_loaded {α : Type} {c : Cartridge} (hst : c.st = .loaded) (reg : Option α) :
    c.whenLoaded reg = reg := if_pos hst

@[simp] theorem Cartridge.whenLoaded_not {α : Type} {c : Cartridge} (hst : c.st ≠ .loaded) (reg : Option α) :
    c.whenLoaded reg = none := if_neg hst

end Sys2Proof.Machine
end

