-- ==== Sys2Proof/Laws/Ops.lean ====
section
/-! SUPPORT. What each shared operation can do, said once: the provers cite these instead of unfolding. -/

namespace Sys2Proof.Machine

theorem answer_some (v : Value) : answer (some v) = .done v := rfl

theorem answer_none : answer none = .absent := rfl

theorem State.readHeader_loaded {α : Type} (f : HeaderRecord → α) (val : α → Value) {s : State} {h : HeaderRecord}
    (hst : s.cart.st = .loaded) (hh : s.cart.hdr = some h) :
    s.readHeader f val = s.respond (.done (val (f h))) := by
  simp [State.readHeader, hst, hh, answer]

theorem State.readHeader_absent {α : Type} (f : HeaderRecord → α) (val : α → Value) {s : State}
    (hst : s.cart.st ≠ .loaded) : s.readHeader f val = s.respond .absent := by
  simp [State.readHeader, hst, answer]

/-- A header read gives one response and writes nothing. -/
theorem State.readHeader_responds {α : Type} (f : HeaderRecord → α) (val : α → Value) (s : State) :
    ∃ r, s.readHeader f val = s.respond r := ⟨_, rfl⟩

theorem State.readLoaded_loaded {α : Type} (reg : Cartridge → Option α) (val : α → Value) {s : State} {v : α}
    (hst : s.cart.st = .loaded) (hv : reg s.cart = some v) : s.readLoaded reg val = s.respond (.done (val v)) := by
  simp [State.readLoaded, hst, hv, answer]

theorem State.readLoaded_absent {α : Type} (reg : Cartridge → Option α) (val : α → Value) {s : State}
    (hst : s.cart.st ≠ .loaded) : s.readLoaded reg val = s.respond .absent := by
  simp [State.readLoaded, hst, answer]

/-- A read of a register gives one response and writes nothing. -/
theorem State.readLoaded_responds {α : Type} (reg : Cartridge → Option α) (val : α → Value) (s : State) :
    ∃ r, s.readLoaded reg val = s.respond r := ⟨_, rfl⟩

theorem execRdImgb_responds (addr : Nat) (s : State) : ∃ r, execRdImgb addr s = .next (s.respond r) := by
  unfold execRdImgb
  split
  · exact ⟨_, rfl⟩
  · split <;> exact ⟨_, rfl⟩

theorem execUDecode_responds (win : Window) (s : State) : ∃ r, execUDecode win s = .next (s.respond r) := by
  unfold execUDecode
  split <;> exact ⟨_, rfl⟩

theorem execUVerify_responds (img : Image) (arg : Byte) (s : State) :
    ∃ r, execUVerify img arg s = .next (s.respond r) := by
  unfold execUVerify
  split <;> exact ⟨_, rfl⟩

/-- Everything LOAD can do: it is refused, it raises one of the four failures, or it commits a decoded image. -/
theorem execLoad_cases {path : Path} {src : Src} {img : Image} {s t : State} (h : execLoad path src img s = .next t) :
    (s.cart.st ≠ .empty ∧ t = s.respond .refused) ∨
    (s.cart.st = .empty ∧ src = .notFound ∧ t = s.raise .notFound) ∨
    (s.cart.st = .empty ∧ ∃ c, src = .ioFault c ∧ t = s.raise (.ioError c)) ∨
    (s.cart.st = .empty ∧ src = .ok ∧ img.length < hdrEnd ∧ t = s.raise .truncatedImage) ∨
    (s.cart.st = .empty ∧ src = .ok ∧ ∃ hlen, decodeWindow (imageWindow img hlen) = none ∧
      t = s.raise .formatError) ∨
    (s.cart.st = .empty ∧ src = .ok ∧ ∃ hlen hdr, decodeWindow (imageWindow img hlen) = some hdr ∧
      t = (s.setCart (s.cart.loadDecoded s.cfg path img hlen hdr)).respond (.done .nothing)) := by
  unfold execLoad at h
  split at h
  case isFalse hst => exact .inl ⟨hst, by simpa using h.symm⟩
  case isTrue hst =>
    cases src with
    | notFound => exact .inr (.inl ⟨hst, rfl, by simpa using h.symm⟩)
    | ioFault c => exact .inr (.inr (.inl ⟨hst, c, rfl, by simpa using h.symm⟩))
    | ok =>
      simp only at h
      split at h
      case isFalse hlen =>
        exact .inr (.inr (.inr (.inl ⟨hst, rfl, Nat.lt_of_not_le hlen, by simpa using h.symm⟩)))
      case isTrue hlen =>
        split at h
        case h_1 hd => exact .inr (.inr (.inr (.inr (.inl ⟨hst, rfl, hlen, hd, by simpa using h.symm⟩))))
        case h_2 hdr hd =>
          exact .inr (.inr (.inr (.inr (.inr ⟨hst, rfl, hlen, hdr, hd, by simpa using h.symm⟩))))

/-- Everything LOAD writes beside the architectural state: its response. -/
theorem execLoad_frame {path : Path} {src : Src} {img : Image} {s t : State} (h : execLoad path src img s = .next t) :
    t.cfg = s.cfg ∧ t.cmds = s.cmds ∧ ∃ r, t.out = s.out ++ [r] := by
  rcases execLoad_cases h with ⟨_, rfl⟩ | ⟨_, _, rfl⟩ | ⟨_, _, _, rfl⟩ | ⟨_, _, _, rfl⟩ | ⟨_, _, _, _, rfl⟩ |
    ⟨_, _, _, _, _, rfl⟩ <;> exact ⟨rfl, rfl, _, rfl⟩

@[simp] theorem State.fetch_nil {s : State} (h : s.cmds = []) : s.fetch = none := by
  simp [State.fetch, h]

@[simp] theorem State.fetch_cons {s : State} {r : Request} {rest : List Request} (h : s.cmds = r :: rest) :
    s.fetch = some (r, { s with cmds := rest }) := by
  simp [State.fetch, h]

end Sys2Proof.Machine
end

