-- ==== Sys2Proof/Laws/PerInstr.lean ====
section
/-! SUPPORT. Statements made instruction by instruction. The family `WellEncoded`: the encoder never makes a reserved
command byte (`30_encoding.md` R68, R70). -/

namespace Sys2Proof.Laws.WellEncoded

/-- The encoding of `i` is a well-formed request. -/
def Statement (i : Instr) : Prop := (encode i).wellFormed = true

theorem clear : Statement .clear := rfl
theorem load (path : Path) (src : Src) (img : Image) : Statement (.load path src img) := rfl
theorem rdStatus : Statement .rdStatus := rfl
theorem rdCause : Statement .rdCause := rfl
theorem rdFname : Statement .rdFname := rfl
theorem rdImglen : Statement .rdImglen := rfl
theorem rdImgb (addr : Nat) : Statement (.rdImgb addr) := rfl
theorem rdEntry : Statement .rdEntry := rfl
theorem rdLogo : Statement .rdLogo := rfl
theorem rdTitle : Statement .rdTitle := rfl
theorem rdNewlic : Statement .rdNewlic := rfl
theorem rdSgb : Statement .rdSgb := rfl
theorem rdCtype : Statement .rdCtype := rfl
theorem rdRomsz : Statement .rdRomsz := rfl
theorem rdRamsz : Statement .rdRamsz := rfl
theorem rdDest : Statement .rdDest := rfl
theorem rdOldlic : Statement .rdOldlic := rfl
theorem rdVer : Statement .rdVer := rfl
theorem rdHck : Statement .rdHck := rfl
theorem rdGck : Statement .rdGck := rfl
theorem rdTypename : Statement .rdTypename := rfl
theorem rdLicname : Statement .rdLicname := rfl
theorem rdRomkb : Statement .rdRomkb := rfl
theorem rdCkok : Statement .rdCkok := rfl
theorem rdSummary : Statement .rdSummary := rfl
theorem uDecode (win : Window) : Statement (.uDecode win) := rfl
theorem uVerify (img : Image) (arg : Byte) : Statement (.uVerify img arg) := rfl
theorem uTypename (arg : Byte) : Statement (.uTypename arg) := rfl
theorem uLicname (arg : Byte) : Statement (.uLicname arg) := rfl
theorem uRomkb (arg : Byte) : Statement (.uRomkb arg) := rfl

end Sys2Proof.Laws.WellEncoded
end

