-- ==== Sys2Proof/Tests/Slice0.lean ====
section
/-! SUPPORT. Tests. Every expected result is the spec's: `95_test_vectors.md` (the vector's id stands beside the test),
or an encoding of `30_encoding.md` R68 written out bit by bit. The last part shows that the hypotheses of the
statements can be met. -/

namespace Sys2Proof.Tests

open Sys2Proof.Machine Sys2Proof.Claims

/-! ## The test configuration and images of `95_test_vectors.md` -/

/-- Two upper-case hex digits. -/
def hexPair (i : Nat) : DisplayName :=
  [i / 16, i % 16].map fun d => Fin.ofNat 0x80 (Nat.digitChar d).toUpper.toNat

/-- CFG-T, in either mode. -/
def cfgT (m : LicBoundMode) : Config where
  typeRom := ⟨(ascii "ROM ONLY" :: (List.range 0x21).map (fun i => ascii "TYPE_" ++ hexPair (i + 1))).toArray, by decide⟩
  licRom := [(0x00, ascii "LIC_00"), (0x01, ascii "LIC_01"), (0x33, ascii "LIC_33")]
  licBoundMode := m
  typeRom_first := by decide
  typeRom_named := by decide
  licRom_rising := by decide

/-- An image of `n` bytes that holds `bs` from address `a` on and, beside them, the listed bytes; 0x00 elsewhere. -/
def image (n a : Nat) (bs : List Byte) (single : List (Nat × Byte)) : Image :=
  (List.replicate a 0 ++ bs ++ List.replicate (n - a - bs.length) 0).zipIdx.map
    fun (b, i) => (single.lookup i).getD b

/-- "TESTROM". -/
def testrom : List Byte := [0x54, 0x45, 0x53, 0x54, 0x52, 0x4F, 0x4D]

def img1 : Image := image 0x150 0x134 testrom [(0x14D, 0xD1)]

/-- The window of IMG2, line by line as the spec prints it. -/
def img2Window : List Byte :=
  [0x00, 0xC3, 0x50, 0x01, 0x01, 0x04, 0x07, 0x0A, 0x0D, 0x10, 0x13, 0x16, 0x19, 0x1C, 0x1F, 0x22] ++
  [0x25, 0x28, 0x2B, 0x2E, 0x31, 0x34, 0x37, 0x3A, 0x3D, 0x40, 0x43, 0x46, 0x49, 0x4C, 0x4F, 0x52] ++
  [0x55, 0x58, 0x5B, 0x5E, 0x61, 0x64, 0x67, 0x6A, 0x6D, 0x70, 0x73, 0x76, 0x79, 0x7C, 0x7F, 0x82] ++
  [0x85, 0x88, 0x8B, 0x8E, 0x5A, 0x45, 0x4C, 0x44, 0x41, 0x00, 0x00, 0x00, 0x00, 0x00, 0x00, 0x00] ++
  [0x00, 0x00, 0x00, 0x00, 0x30, 0x31, 0x03, 0x13, 0x05, 0x03, 0x01, 0x33, 0x02, 0xDA, 0xBE, 0xEF]

def img2 : Image := image 0x200 0x100 img2Window []
def img3 : Image := image 0x200 0x100 img2Window [(0x14C, 0x03)]
def img4 : Image := image 0x150 0 [] []
def img5 : Image := image 0x150 0x134 testrom [(0x14D, 0xD1), (0x143, 0x80)]
def img6 : Image := image 0x10 0 [] []

/-- A window: 0x00 but for the listed bytes. -/
def window (single : List (Nat × Byte)) : Window := Vector.ofFn fun i : Fin 0x50 => (single.lookup i.val).getD 0

def win2 : Window := imageWindow img2 (by decide +kernel)

def p1 : Path := ⟨"p1"⟩
def c0 : Cause := ⟨"c0"⟩

/-- Reset under CFG-T. -/
def start (m : LicBoundMode) : State := { State.reset with cfg := cfgT m }

/-- The next state, if there is one. -/
def next : Outcome → Option State
  | .next s => some s
  | _ => none

/-- The response a command gives. -/
def resp (o : Outcome) : Option Response := (next o).bind fun s => s.out.getLast?

/-- The state after a command. -/
def after (i : Instr) (s : State) : State := (next (exec i s)).getD s

/-- The state after a LOAD of an image from reset. -/
def loaded (m : LicBoundMode) (img : Image) : State := after (.load p1 .ok img) (start m)

/-! ## Decoding: every command byte of R68, written out bit by bit -/

theorem test_decode_control (p : Ports) :
    decode ⟨0b00000000, p⟩ = .ok .clear ∧ decode ⟨0b00000001, p⟩ = .ok (.load p.path p.src p.img) := ⟨rfl, rfl⟩

theorem test_decode_read_state (p : Ports) :
    decode ⟨0b00100000, p⟩ = .ok .rdStatus ∧ decode ⟨0b00100001, p⟩ = .ok .rdCause ∧
    decode ⟨0b00100010, p⟩ = .ok .rdFname ∧ decode ⟨0b00100011, p⟩ = .ok .rdImglen ∧
    decode ⟨0b00100100, p⟩ = .ok (.rdImgb p.addr) := ⟨rfl, rfl, rfl, rfl, rfl⟩

theorem test_decode_read_header (p : Ports) :
    decode ⟨0b00100101, p⟩ = .ok .rdEntry ∧ decode ⟨0b00100110, p⟩ = .ok .rdLogo ∧
    decode ⟨0b00100111, p⟩ = .ok .rdTitle ∧ decode ⟨0b00101000, p⟩ = .ok .rdNewlic ∧
    decode ⟨0b00101001, p⟩ = .ok .rdSgb ∧ decode ⟨0b00101010, p⟩ = .ok .rdCtype ∧
    decode ⟨0b00101011, p⟩ = .ok .rdRomsz ∧ decode ⟨0b00101100, p⟩ = .ok .rdRamsz ∧
    decode ⟨0b00101101, p⟩ = .ok .rdDest ∧ decode ⟨0b00101110, p⟩ = .ok .rdOldlic ∧
    decode ⟨0b00101111, p⟩ = .ok .rdVer ∧ decode ⟨0b00110000, p⟩ = .ok .rdHck ∧
    decode ⟨0b00110001, p⟩ = .ok .rdGck := ⟨rfl, rfl, rfl, rfl, rfl, rfl, rfl, rfl, rfl, rfl, rfl, rfl, rfl⟩

theorem test_decode_read_derived (p : Ports) :
    decode ⟨0b00110010, p⟩ = .ok .rdTypename ∧ decode ⟨0b00110011, p⟩ = .ok .rdLicname ∧
    decode ⟨0b00110100, p⟩ = .ok .rdRomkb ∧ decode ⟨0b00110101, p⟩ = .ok .rdCkok ∧
    decode ⟨0b00110110, p⟩ = .ok .rdSummary := ⟨rfl, rfl, rfl, rfl, rfl⟩

theorem test_decode_unit (p : Ports) :
    decode ⟨0b01000000, p⟩ = .ok (.uDecode p.win) ∧ decode ⟨0b01000001, p⟩ = .ok (.uVerify p.img p.arg) ∧
    decode ⟨0b01000010, p⟩ = .ok (.uTypename p.arg) ∧ decode ⟨0b01000011, p⟩ = .ok (.uLicname p.arg) ∧
    decode ⟨0b01000100, p⟩ = .ok (.uRomkb p.arg) := ⟨rfl, rfl, rfl, rfl, rfl⟩

/-- R70, at the ends of the reserved ranges. -/
theorem test_decode_reserved (p : Ports) :
    decode ⟨0x02, p⟩ = .error (.reservedCommand 0x02) ∧ decode ⟨0x1F, p⟩ = .error (.reservedCommand 0x1F) ∧
    decode ⟨0x37, p⟩ = .error (.reservedCommand 0x37) ∧ decode ⟨0x3F, p⟩ = .error (.reservedCommand 0x3F) ∧
    decode ⟨0x45, p⟩ = .error (.reservedCommand 0x45) ∧ decode ⟨0x61, p⟩ = .error (.reservedCommand 0x61) ∧
    decode ⟨0xFF, p⟩ = .error (.reservedCommand 0xFF) := ⟨rfl, rfl, rfl, rfl, rfl, rfl, rfl⟩

theorem test_table_word : decodeTableWord 8 0x44 = some (.uRomkb 0) ∧ decodeTableWord 8 0x45 = none ∧
    decodeTableWord 16 0x44 = none := by decide

/-- An opcode-table word runs as the first command after reset. -/
theorem test_table_word_runs : resp (step (State.reset.withFetchWord 8 0x44)) = some (.done (.nat 32)) := by
  decide +kernel

/-! ## WellFormed: an ill-formed term for each check, which the check refuses -/

theorem test_reserved_request_ill_formed :
    Request.wellFormed ⟨0x02, Ports.idle⟩ = false ∧ Request.wellFormed ⟨0x1F, Ports.idle⟩ = false ∧
    Request.wellFormed ⟨0x37, Ports.idle⟩ = false ∧ Request.wellFormed ⟨0x3F, Ports.idle⟩ = false ∧
    Request.wellFormed ⟨0x45, Ports.idle⟩ = false := by decide

/-- A record whose fields are all 0 but for the title. -/
def titled (t : List Byte) : HeaderRecord :=
  { entry := Vector.replicate 4 0, logo := Vector.replicate 0x30 0, title := t, newlic := 0, sgb := 0, ctype := 0,
    romsz := 0, ramsz := 0, dest := 0, oldlic := 0, ver := 0, hck := 0, gck := 0 }

/-- The record of DV1. -/
def rec1 : HeaderRecord := { titled testrom with hck := 0xD1 }

theorem test_long_title_ill_formed : (titled (List.replicate 17 0x41)).wellFormed = false := by decide

theorem test_non_ascii_title_ill_formed : (titled [0x41, 0x80]).wellFormed = false := by decide

theorem test_trailing_nul_title_ill_formed : (titled [0x41, 0x00]).wellFormed = false := by decide

theorem test_record_well_formed : (titled (List.replicate 16 0x7F)).wellFormed = true ∧
    (titled []).wellFormed = true := by decide

/-! ## The header decoder (DV vectors) and `U.DECODE` -/

theorem test_decode_testrom : resp (exec (.uDecode (imageWindow img1 (by decide +kernel))) (start .fixed)) =
    some (.done (.record rec1)) := by decide +kernel   -- DV1

theorem test_decode_img2 : ((decodeWindow win2).map fun h =>
      (h.entry.toList, h.logo.toList.getLast?, h.title, [h.newlic, h.gck],
        [h.sgb, h.ctype, h.romsz, h.ramsz, h.dest, h.oldlic, h.ver, h.hck])) =
    some ([0x00, 0xC3, 0x50, 0x01], some 0x8E, [0x5A, 0x45, 0x4C, 0x44, 0x41], [0x3031, 0xBEEF],
      [0x03, 0x13, 0x05, 0x03, 0x01, 0x33, 0x02, 0xDA]) := by decide +kernel   -- DV2

theorem test_decode_interior_nul :
    (decodeWindow (window [(0x35, 0x41)])).map HeaderRecord.title = some [0x00, 0x41] := by decide +kernel   -- DV10

theorem test_decode_boundary : (decodeWindow (window [(0x34, 0x7F)])).map HeaderRecord.title = some [0x7F] ∧
    decodeWindow (window [(0x34, 0x80)]) = none := by decide +kernel   -- DV7, DV8

theorem test_encode_window : encodeWindow rec1 = imageWindow img1 (by decide +kernel) := by decide +kernel   -- E5

theorem test_udecode_format_error :
    resp (exec (.uDecode (window [(0x34, 0x80)])) (start .fixed)) = some (.err .formatError none) := by
  decide +kernel   -- DV8

/-! ## The checksum engine (CV vectors) -/

theorem test_uverify : resp (exec (.uVerify img2 0xDA) (start .fixed)) = some (.done (.bit true)) ∧
    resp (exec (.uVerify img3 0xDA) (start .fixed)) = some (.done (.bit false)) := by decide +kernel   -- CV3, CV4

theorem test_uverify_length :
    resp (exec (.uVerify (List.replicate 0x14D 0) 0xFF) (start .fixed)) = some (.done (.bit true)) ∧
    resp (exec (.uVerify (List.replicate 0x14C 0) 0xFF) (start .fixed)) = some .refused := by
  decide +kernel   -- CV16, CV17

theorem test_cksum_largest : ckSum (List.replicate 0x150 0xFF) (by decide +kernel) = 0xE7 := by decide +kernel   -- CV8

/-! ## The lookup ROMs (LV vectors) -/

/-- The sentinel is a string of 7 ASCII characters (R6, R8). -/
theorem test_ascii : unknownName = [0x55, 0x4E, 0x4B, 0x4E, 0x4F, 0x57, 0x4E] := by decide

theorem test_utypename : resp (exec (.uTypename 0x21) (start .fixed)) = some (.done (.name (ascii "TYPE_21"))) ∧
    resp (exec (.uTypename 0x22) (start .fixed)) = some (.done (.name (ascii "UNKNOWN"))) := by decide +kernel   -- LV3, LV4

theorem test_ulicname : resp (exec (.uLicname 0x33) (start .parity)) = some (.done (.name (ascii "UNKNOWN"))) ∧
    resp (exec (.uLicname 0x33) (start .fixed)) = some (.done (.name (ascii "LIC_33"))) := by decide +kernel   -- LV10

theorem test_ulicname_absent : resp (exec (.uLicname 0x02) (start .fixed)) = some (.done (.name (ascii "UNKNOWN"))) ∧
    resp (exec (.uLicname 0x01) (start .parity)) = some (.done (.name (ascii "LIC_01"))) := by decide +kernel   -- LV7, LV8

theorem test_uromkb : resp (exec (.uRomkb 0x21) (start .fixed)) = some (.done (.nat 274877906944)) := by
  decide +kernel   -- LV16

/-! ## The loader (XV vectors) -/

theorem test_load_passes : (loaded .parity img1).cart.status = 0x21 ∧ (loaded .parity img1).cart.report.length = 1 ∧
    (loaded .parity img1).cart.fname = some p1 := by decide +kernel   -- XV1

theorem test_load_failures :
    (after (.load p1 .ok img6) (start .fixed)).cart.status = 0x0E ∧   -- XV4
    (after (.load p1 .notFound img6) (start .fixed)).cart.status = 0x06 ∧   -- XV12
    (after (.load p1 (.ioFault c0) img1) (start .fixed)).cart.status = 0x0A ∧   -- XV9
    (after (.load p1 .ok img5) (start .fixed)).cart.status = 0x12 := by decide +kernel   -- XV10

theorem test_load_refused : resp (exec (.load p1 .ok img1) (loaded .fixed img4)) = some .refused := by
  decide +kernel   -- XV13

theorem test_clear : (after .clear (loaded .fixed img1)).cart.status = 0x00 ∧
    (after .clear (loaded .fixed img1)).cart.report.length = 1 ∧
    (after .clear (loaded .fixed img1)).cart.raw = none := by decide +kernel   -- XV15

theorem test_reserved_step :
    next (step { start .fixed with cmds := [⟨0x37, Ports.idle⟩] }) =
      some { start .fixed with out := [.refused] } := rfl   -- XV16

/-! ## The accessors (AV vectors), with IMG2 loaded -/

/-- The response of an accessor with IMG2 loaded under CFG-T and `PARITY`. -/
def read2 (i : Instr) : Option Response := resp (exec i (loaded .parity img2))

theorem test_rd_state : read2 .rdStatus = some (.done (.byte 0x21)) ∧ read2 .rdFname = some (.done (.path p1)) ∧
    read2 .rdCause = some .absent := by decide +kernel

theorem test_rd_image : read2 .rdImglen = some (.done (.nat 0x200)) ∧
    read2 (.rdImgb 0x1FF) = some (.done (.byte 0x00)) ∧ read2 (.rdImgb 0x144) = some (.done (.byte 0x30)) ∧
    read2 (.rdImgb 0x200) = some .refused := by decide +kernel   -- AV7

theorem test_rd_arrays : read2 .rdEntry = some (.done (.bytes [0x00, 0xC3, 0x50, 0x01])) ∧
    read2 .rdTitle = some (.done (.bytes [0x5A, 0x45, 0x4C, 0x44, 0x41])) := by decide +kernel   -- AV3, AV4

theorem test_rd_logo : read2 .rdLogo =
    some (.done (.bytes ((List.range 0x30).map fun i => BitVec.ofNat 8 (3 * i + 1)))) := by decide +kernel

theorem test_rd_halves : read2 .rdNewlic = some (.done (.half 0x3031)) ∧
    read2 .rdGck = some (.done (.half 0xBEEF)) := by decide +kernel   -- AV5

theorem test_rd_bytes : [.rdSgb, .rdCtype, .rdRomsz, .rdRamsz, .rdDest, .rdOldlic, .rdVer, .rdHck].map read2 =
    [0x03, 0x13, 0x05, 0x03, 0x01, 0x33, 0x02, 0xDA].map fun b => some (.done (.byte b)) := by decide +kernel   -- AV6

theorem test_rd_names : read2 .rdTypename = some (.done (.name (ascii "TYPE_13"))) ∧
    read2 .rdLicname = some (.done (.name (ascii "UNKNOWN"))) ∧ read2 .rdRomkb = some (.done (.nat 1024)) := by decide +kernel

theorem test_rd_ckok : read2 .rdCkok = some (.done (.bit true)) ∧
    resp (exec .rdCkok (loaded .fixed img3)) = some (.done (.bit false)) := by decide +kernel   -- AV9

theorem test_rd_summary : resp (exec .rdSummary (loaded .fixed img2)) = some (.done (.summary
    { title := [0x5A, 0x45, 0x4C, 0x44, 0x41], typeCode := 0x13, typeName := ascii "TYPE_13", romKb := 1024,
      ramSizeCode := 0x03, licCode := 0x33, licName := ascii "LIC_33", version := 0x02, checksumByte := 0xDA,
      checksumOk := true })) := by decide +kernel   -- AV13

theorem test_rd_cause : resp (exec .rdCause (after (.load p1 (.ioFault c0) []) (start .fixed))) =
    some (.done (.cause c0)) := by decide +kernel   -- AV10

theorem test_rd_empty_title : resp (exec .rdTitle (loaded .fixed img4)) = some (.done (.bytes [])) ∧
    resp (exec .rdTitle (start .fixed)) = some .absent := by decide +kernel   -- AV8, AV2

/-! ## Witnesses: the hypotheses of the statements can be met -/

theorem titleAscii_of_all {img : Image} (h : ((img.drop 0x134).take 16).all (fun b => b.toNat ≤ 0x7F) = true) :
    TitleAscii img := by
  intro a b h1 h2 hb
  obtain ⟨k, rfl⟩ := Nat.exists_eq_add_of_le h1
  refine of_decide_eq_true (List.all_eq_true.mp h b (List.mem_of_getElem? (i := k) ?_))
  rw [List.getElem?_take, if_pos (by omega), List.getElem?_drop, hb]

theorem not_titleAscii_of_byte {img : Image} {a : Nat} {b : Byte} (h1 : 0x134 ≤ a) (h2 : a ≤ 0x143)
    (hb : img[a]? = some b) (h : 0x7F < b.toNat) : ¬ TitleAscii img :=
  fun ht => Nat.not_le_of_lt h (ht a b h1 h2 hb)

/-- EmptyAccessorsAnswerAbsent, ClearEmptiesAllButReport, LoadDependsOnlyOnOperands: a sound empty state. -/
theorem witness_empty : (start .fixed).cart.EmptyClause ∧ (start .fixed).cart.st = .empty :=
  ⟨⟨rfl, rfl, rfl, rfl, rfl, rfl, rfl, rfl, rfl, rfl⟩, rfl⟩

/-- IdleStepKeepsAllState, EveryStepGivesOneResponse. -/
theorem witness_idle : (start .fixed).cmds = [] := rfl

/-- StepRunsDecodedCommand, EveryStepGivesOneResponse, DecodedCommandKeepsItsByte. -/
theorem witness_pending :
    ({ start .fixed with cmds := [encode .rdSgb] } : State).cmds = encode .rdSgb :: [] ∧
    decode (encode .rdSgb) = .ok .rdSgb ∧ (encode .rdSgb).ports = Ports.idle := ⟨rfl, rfl, rfl⟩

/-- ReservedByteIsRefused. -/
theorem witness_reserved :
    ({ start .fixed with cmds := [⟨0x02, Ports.idle⟩] } : State).cmds = ⟨0x02, Ports.idle⟩ :: [] ∧
    ∃ e, decode ⟨0x02, Ports.idle⟩ = .error e := ⟨rfl, _, rfl⟩

/-- HalfFieldsAreBigEndian, FieldsAreCopiedByOffset, HeaderWindowRoundTrip (second half), DecodeIsInjective and the
first clause of UDecodeAnswersRecord. -/
theorem witness_decodes : ∃ h, decodeWindow win2 = some h :=
  Option.isSome_iff_exists.mp (by decide +kernel)

/-- HeaderWindowRoundTrip (first half). -/
theorem witness_record : rec1.wellFormed = true := by decide

/-- TitleDropsOnlyTrailingNul, the clause for the all-0x00 region. -/
theorem witness_title_empty : (decodeWindow (window [])).isSome = true ∧
    ∀ i (_ : i < 16), (window [])[0x34 + i] = 0 := by
  constructor
  · decide +kernel
  · intro i hi; simp [window]

/-- TitleDropsOnlyTrailingNul, the last byte of the region not 0x00, and only the first one not 0x00. -/
theorem witness_title_ends : (decodeWindow (window [(0x43, 0x41)])).map HeaderRecord.title =
      some (List.replicate 15 0 ++ [0x41]) ∧
    (decodeWindow (window [(0x34, 0x41)])).map HeaderRecord.title = some [0x41] := by decide +kernel

/-- DecodeFailsExactlyOnNonAsciiTitle at the last title byte, and the failing clause of UDecodeAnswersRecord. -/
theorem witness_decode_fails : decodeWindow (window [(0x43, 0x80)]) = none ∧
    (decodeWindow (window [(0x33, 0x80), (0x44, 0x80)])).isSome = true := by decide +kernel

/-- The last clause of UDecodeAnswersRecord. -/
theorem witness_window_ascii : ∀ i (_ : i < 16), (window [])[0x34 + i].toNat ≤ 0x7F := by
  intro i hi; simp [window]

/-- ChecksumIsSumModulo256, VerifyIsComplementOfSum, the first clause of UVerifyAnswersTest (the shortest image). -/
theorem witness_shortest_summed : 0x14C < (List.replicate 0x14D (0 : Byte)).length := by decide +kernel

/-- The second clause of UVerifyAnswersTest (the longest refused image). -/
theorem witness_longest_refused : (List.replicate 0x14C (0 : Byte)).length < 0x14D := by decide +kernel

/-- ChecksumIgnoresOtherBytes, on either side of the range. -/
theorem witness_unsummed : 0x14C < img1.length ∧ 0x14C < (img1.set 0x133 0xFF).length ∧
    (0x133 < 0x134 ∨ 0x14C < 0x133) ∧ 0x14C < (img1.set 0x14D 0x00).length ∧ (0x14D < 0x134 ∨ 0x14C < 0x14D) := by
  decide +kernel

/-- VerifyIsComplementOfSum, one byte changed at each end of the range. -/
theorem witness_one_byte_changed : verify img1 0xD1 (by decide +kernel) = true ∧ img1[0x134]? ≠ some 0x00 ∧
    img1[0x14C]? ≠ some 0x01 ∧ 0x14C < (img1.set 0x134 0x00).length ∧ 0x14C < (img1.set 0x14C 0x01).length := by
  decide +kernel

/-- UTypenameAnswersTableEntry at the ends of its ranges. -/
theorem witness_type_codes : (0x21 : Byte).toNat < 0x22 ∧ 0x22 ≤ (0x22 : Byte).toNat := by decide

/-- ULicnameAnswersByMode and LicenseeModesDifferOnlyFrom0x22: a code with an entry under each mode, at 0x22 or more and
below it, and a code with none. -/
theorem witness_licensees : (start .parity).cfg.licBoundMode = .parity ∧ (start .fixed).cfg.licBoundMode = .fixed ∧
    0x22 ≤ (0x33 : Byte).toNat ∧ (0x33, ascii "LIC_33") ∈ (start .fixed).cfg.licRom ∧ (0x01 : Byte).toNat < 0x22 ∧
    (0x01, ascii "LIC_01") ∈ (start .parity).cfg.licRom := by decide

theorem witness_no_licensee : ∀ name, ((0x02 : Byte), name) ∉ (start .fixed).cfg.licRom := by
  intro name h
  have h : ((0x02 : Byte), name) ∈ [((0x00 : Byte), ascii "LIC_00"), (0x01, ascii "LIC_01"), (0x33, ascii "LIC_33")] := h
  simp at h

/-- LoadCommitsImage, ChecksumMismatchStillLoads (IMG4: the checksum fails; 0x150 bytes, the least), ChecksumSeesWindowBytes. -/
theorem witness_loadable : 0x150 ≤ img4.length ∧ TitleAscii img4 ∧ (start .fixed).cart.st = .empty ∧
    img4[0x14D]? = some 0x00 :=
  ⟨by decide +kernel, titleAscii_of_all (by decide +kernel), rfl, by decide +kernel⟩

/-- LoadFailurePath: the longest image that is too short, and a bad last title byte. -/
theorem witness_load_fails : (List.replicate 0x14F (0 : Byte)).length < 0x150 ∧ 0x150 ≤ img5.length ∧
    ¬ TitleAscii img5 :=
  ⟨by decide +kernel, by decide +kernel,
    not_titleAscii_of_byte (a := 0x143) (b := 0x80) (by decide) (by decide) (by decide +kernel) (by decide)⟩

/-- ClearThenLoadSucceeds, from a failed state. -/
theorem witness_retry :
    ({ after (.load p1 .ok img6) (start .fixed) with
        cmds := [encode .clear, encode (.load p1 .ok img4)] } : State).cmds =
      encode .clear :: encode (.load p1 .ok img4) :: [] ∧
    (after (.load p1 .ok img6) (start .fixed)).cart.st = .failed := ⟨rfl, by decide +kernel⟩

/-- What CLEAR leaves is a sound empty state. -/
theorem clear_emptyClause (c : Cartridge) : c.clear.EmptyClause := by
  simp [Cartridge.EmptyClause, Cartridge.NoDerived, Cartridge.hv]

/-- LoadDependsOnlyOnOperands: two empty states that differ in `REPORT`, both of which take the LOAD. -/
theorem witness_two_empty_states : (after .clear (loaded .fixed img4)).cart.EmptyClause ∧
    (after .clear (loaded .fixed img4)).cart.report ≠ (start .fixed).cart.report ∧
    (∃ t, exec (.load p1 .notFound img4) (after .clear (loaded .fixed img4)) = .next t) ∧
    (∃ t, exec (.load p1 .notFound img4) (start .fixed) = .next t) :=
  ⟨clear_emptyClause (loaded .fixed img4).cart, by decide +kernel, ⟨_, rfl⟩, ⟨_, rfl⟩⟩

/-- LoadReadsOnlyHeaderBytes: two images that differ at 0x0FF and 0x150, next to the header. -/
theorem witness_same_header : ∀ a, 0x100 ≤ a → a < 0x150 →
    (image 0x151 0x134 testrom [(0xFF, 0x01), (0x14D, 0xD1), (0x150, 0x01)])[a]? = img1[a]? := by
  have h : ∀ i, i < 0x50 →
      (image 0x151 0x134 testrom [(0xFF, 0x01), (0x14D, 0xD1), (0x150, 0x01)])[0x100 + i]? = img1[0x100 + i]? := by decide +kernel
  intro a h1 h2
  obtain ⟨k, rfl⟩ := Nat.exists_eq_add_of_le h1
  exact h k (by omega)

/-- CauseIsReadAfterIoError: a state that satisfies R38 with `ERR = IO_ERROR`. -/
theorem witness_io_error : (after (.load p1 (.ioFault c0) []) (start .fixed)).Inv ∧
    (after (.load p1 (.ioFault c0) []) (start .fixed)).cart.err = .failed .ioError ∧
    (after (.load p1 (.ioFault c0) []) (start .fixed)).cart.cause = some c0 :=
  ⟨.inr (.inr ⟨rfl, ⟨.ioError, rfl, by simp [after, next, exec, execLoad, start, State.reset, Cartridge.empty,
    State.raise, State.setCart, State.respond, Cartridge.fail, Failure.info]⟩, rfl, rfl, rfl, rfl, rfl, rfl, rfl⟩),
    rfl, rfl⟩

/-- The state hypotheses of the accessor statements (ByteArrayAccessors, HalfAccessors, SingleByteAccessors,
DerivedAccessors, SummaryIsRebuilt, LoadedImageReadsBack), of StatusIsLegalByte and of the invariant statements: a sound
loaded state, reached by LOAD. -/
theorem witness_loaded : (loaded .parity img1).Inv ∧ (loaded .parity img1).ReportInv ∧
    (loaded .parity img1).cart.st = .loaded ∧ (loaded .parity img1).cart.raw = some img1 ∧
    (loaded .parity img1).cart.hdr = some rec1 ∧ (loaded .parity img1).cart.fname = some p1 := by
  have state : (loaded .parity img1).cart.st = .loaded ∧ (loaded .parity img1).cart.err = .none ∧
      (loaded .parity img1).cart.cause = none ∧ (loaded .parity img1).cart.fname = some p1 ∧
      (loaded .parity img1).cart.raw = some img1 ∧ (loaded .parity img1).cart.hdr = some rec1 := by decide +kernel
  obtain ⟨hst, herr, hcause, hfname, hraw, hhdr⟩ := state
  have clause : (loaded .parity img1).cart.LoadedClause (loaded .parity img1).cfg := by
    refine ⟨hst, herr, hcause, by rw [hfname]; rfl, by rw [Cartridge.hv, hhdr]; rfl, img1, rec1, by decide +kernel, hraw,
      hhdr, by decide +kernel, titleAscii_of_all (by decide +kernel), ?_⟩
    decide +kernel
  refine ⟨.inr (.inl clause), fun _ => ?_, hst, hraw, hhdr, hfname⟩
  have h : (loaded .parity img1).cart.summary ≠ none ∧
      (loaded .parity img1).cart.summary = (loaded .parity img1).cart.report.getLast? := by decide +kernel
  obtain ⟨m, hm⟩ := Option.ne_none_iff_exists'.mp h.1
  exact ⟨m, hm, h.2 ▸ hm⟩

/-- The step hypotheses of StepKeepsSoundState, StepKeepsReportTie, OnlyClearLeavesTerminalState and
ReportGrowsOnlyByLoad: a CLEAR waiting in a loaded state takes a step that changes it. -/
theorem witness_clear_steps : ∃ t, step { loaded .parity img1 with cmds := [encode .clear] } = .next t ∧
    t.cart ≠ (loaded .parity img1).cart ∧ (loaded .parity img1).cart.st ≠ .empty := by
  refine ⟨_, rfl, ?_, by decide +kernel⟩
  intro h
  have h := congrArg Cartridge.st h
  exact absurd h (by decide +kernel)

/-- ReportGrowsOnlyByLoad, the growing clause. -/
theorem witness_load_steps : ∃ t, step { start .fixed with cmds := [encode (.load p1 .ok img4)] } = .next t ∧
    t.cart.st = .loaded ∧ t.cart.report.length = 1 := by
  have h : (next (step { start .fixed with cmds := [encode (.load p1 .ok img4)] })).map
      (fun t => (t.cart.st, t.cart.report.length)) = some (.loaded, 1) := by decide +kernel
  obtain ⟨t, ht, he⟩ := Option.map_eq_some_iff.mp h
  refine ⟨t, ?_, congrArg Prod.fst he, congrArg Prod.snd he⟩
  generalize step _ = o at ht
  cases o <;> simp [next] at ht
  rw [ht]

/-- OnlyClearAndLoadWriteState. -/
theorem witness_exec_next : ∃ t, exec .rdStatus (start .fixed) = .next t := ⟨_, rfl⟩

end Sys2Proof.Tests
end

/-! SUPPORT. The step by its three cases, and what a command, and so a step, can do to the architectural state: said
once, for every invariant and safety statement. -/

namespace Sys2Proof.Machine

/-- R184. With no request waiting the step is idle. -/
theorem step_of_no_request {s : State} (hc : s.cmds = []) : step s = .next s := by
  simp only [step, State.fetch_nil hc, idle]

/-- R36, R51, R53. A step runs the command the oldest request decodes to, with that request off the port. -/
theorem step_of_decode_ok {s : State} {r : Request} {rest : List Request} {i : Instr} (hc : s.cmds = r :: rest)
    (hd : decode r = .ok i) : step s = exec i { s with cmds := rest } := by
  simp only [step, State.fetch_cons hc, hd]

/-- R70. A step with a reserved byte at the head of the port answers `REFUSED`. -/
theorem step_of_decode_error {s : State} {r : Request} {rest : List Request} {e : DecodeError}
    (hc : s.cmds = r :: rest) (hd : decode r = .error e) :
    step s = .next (State.respond .refused { s with cmds := rest }) := by
  simp only [step, State.fetch_cons hc, hd, execReserved]

/-- R135, R90, R102, R112, R115, R117. Every command but CLEAR and LOAD only gives its response. -/
theorem exec_responds (i : Instr) (s : State) :
    (∃ r, exec i s = .next (s.respond r)) ∨ i = .clear ∨ ∃ path src img, i = .load path src img := by
  cases i with
  | clear => exact .inr (.inl rfl)
  | load path src img => exact .inr (.inr ⟨path, src, img, rfl⟩)
  | rdImgb addr => exact .inl (execRdImgb_responds addr s)
  | uDecode win => exact .inl (execUDecode_responds win s)
  | uVerify img arg => exact .inl (execUVerify_responds img arg s)
  | _ => exact .inl ⟨_, rfl⟩

/-- R69, R183. What every command leaves alone, and its one response. -/
theorem exec_frame {i : Instr} {s t : State} (h : exec i s = .next t) :
    t.cfg = s.cfg ∧ t.cmds = s.cmds ∧ ∃ r, t.out = s.out ++ [r] := by
  obtain ⟨r, hr⟩ | rfl | ⟨path, src, img, rfl⟩ := exec_responds i s
  · cases hr.symm.trans h
    exact ⟨rfl, rfl, r, rfl⟩
  · cases h
    exact ⟨rfl, rfl, _, rfl⟩
  · exact execLoad_frame h

/-- The three ways the command `i`, under the configuration `cfg`, can take the architectural state from `c` to `c'`:
CLEAR (R120), the failure path of a LOAD (R179) and its commit (R121, R127). A LOAD gets to either from `EMPTY` only
(R133). -/
inductive CartWrite (cfg : Config) (i : Instr) (c c' : Cartridge) : Prop where
  | clear (hi : i = .clear) (hc : c' = c.clear)
  | fail (f : Failure) (hst : c.st = .empty) (hi : ∃ path src img, i = .load path src img) (hc : c' = c.fail f)
  | commit (path : Path) (img : Image) (hlen : hdrEnd ≤ img.length) (hdr : HeaderRecord) (hst : c.st = .empty)
      (hi : i = .load path .ok img) (hd : decodeWindow (imageWindow img hlen) = some hdr)
      (hc : c' = c.loadDecoded cfg path img hlen hdr)

/-- A command leaves the architectural state as it was or writes it in one of the three ways. -/
theorem exec_cart_cases {i : Instr} {s t : State} (h : exec i s = .next t) :
    t.cart = s.cart ∨ CartWrite s.cfg i s.cart t.cart := by
  obtain ⟨r, hr⟩ | rfl | ⟨path, src, img, rfl⟩ := exec_responds i s
  · cases hr.symm.trans h
    exact .inl rfl
  · cases h
    exact .inr (.clear rfl rfl)
  · obtain ⟨_, rfl⟩ | ⟨hst, _, rfl⟩ | ⟨hst, c, _, rfl⟩ | ⟨hst, _, _, rfl⟩ | ⟨hst, _, _, _, rfl⟩ |
      ⟨hst, rfl, hlen, hdr, hd, rfl⟩ := execLoad_cases h
    · exact .inl rfl
    · exact .inr (.fail .notFound hst ⟨_, _, _, rfl⟩ rfl)
    · exact .inr (.fail (.ioError c) hst ⟨_, _, _, rfl⟩ rfl)
    · exact .inr (.fail .truncatedImage hst ⟨_, _, _, rfl⟩ rfl)
    · exact .inr (.fail .formatError hst ⟨_, _, _, rfl⟩ rfl)
    · exact .inr (.commit path img hlen hdr hst rfl hd rfl)

/-- R39, R184. A step keeps the configuration, and it leaves the architectural state as it was unless the oldest request
is a command that writes it. -/
theorem step_cart_cases {s t : State} (h : step s = .next t) :
    t.cfg = s.cfg ∧ (t.cart = s.cart ∨
      ∃ r rest i, s.cmds = r :: rest ∧ decode r = .ok i ∧ CartWrite s.cfg i s.cart t.cart) := by
  cases hc : s.cmds with
  | nil =>
    cases (step_of_no_request hc).symm.trans h
    exact ⟨rfl, .inl rfl⟩
  | cons r rest =>
    cases hd : decode r with
    | error e =>
      cases (step_of_decode_error hc hd).symm.trans h
      exact ⟨rfl, .inl rfl⟩
    | ok i =>
      have hexec := (step_of_decode_ok hc hd).symm.trans h
      obtain ⟨hcfg, _⟩ := exec_frame hexec
      exact ⟨hcfg, (exec_cart_cases hexec).imp_right fun hw => ⟨r, rest, i, rfl, hd, hw⟩⟩

end Sys2Proof.Machine

/-! SUPPORT. The title region of an image's header window, in the image's own addresses. -/

namespace Sys2Proof.Machine

open Sys2Proof.Claims

/-- R49, R61. The title region of the header window is `IMG[0x134..0x143]`. -/
theorem titleRegion_imageWindow (img : Image) (hlen : hdrEnd ≤ img.length) :
    titleRegion (imageWindow img hlen) = (img.drop 0x134).take 16 := by
  simp [titleRegion, titleLen, imageWindow, hdrLen, List.drop_take, List.take_take]

/-- R91, R124. The header window of an image decodes exactly when the image's title bytes are ASCII. -/
theorem decodeWindow_imageWindow_isSome_iff (img : Image) (hlen : hdrEnd ≤ img.length) :
    (decodeWindow (imageWindow img hlen)).isSome = true ↔ TitleAscii img := by
  rw [decodeWindow_isSome_iff, titleRegion_imageWindow]
  constructor
  · intro h a b h1 h2 hb
    obtain ⟨k, rfl⟩ := Nat.exists_eq_add_of_le h1
    refine h b (List.mem_of_getElem? (i := k) ?_)
    rw [List.getElem?_take_of_lt (by omega), List.getElem?_drop, hb]
  · intro h b hb
    obtain ⟨k, hk, rfl⟩ := List.mem_take_iff_getElem.mp hb
    refine h (0x134 + k) _ (by omega) (by omega) ?_
    rw [← List.getElem?_drop]
    exact List.getElem?_eq_getElem (by omega)

end Sys2Proof.Machine

/-! SUPPORT. The invariant of R38 under each of the ways a step can change the architectural state. -/

namespace Sys2Proof.Machine

/-- R38. A sound state with `ST = EMPTY` meets the clause for `EMPTY`. -/
theorem State.Inv.emptyClause {s : State} (h : s.Inv) (hst : s.cart.st = .empty) : s.cart.EmptyClause := by
  obtain he | ⟨hl, _⟩ | ⟨hf, _⟩ := h
  · exact he
  · cases hst.symm.trans hl
  · cases hst.symm.trans hf

/-- R33, R38. With an image loaded `CKOK` holds a value. -/
theorem Cartridge.LoadedClause.exists_ckOk {cfg : Config} {c : Cartridge} (h : c.LoadedClause cfg) :
    ∃ ok, c.ckOk = some ok := by
  obtain ⟨_, _, _, _, _, _, _, _, _, _, _, _, _, _, _, hck⟩ := h
  exact ⟨_, hck⟩

/-- R120. What CLEAR leaves is sound, whatever it cleared. -/
theorem State.inv_of_clear {t : State} {c : Cartridge} (ht : t.cart = c.clear) : t.Inv := by
  refine .inl ?_
  rw [ht]
  exact ⟨rfl, rfl, rfl, rfl, rfl, rfl, rfl, rfl, rfl, rfl⟩

/-- R170, R179. A failure carries information exactly when it is an I/O fault. -/
theorem Failure.info_isSome_iff (f : Failure) : f.info.isSome = true ↔ f.kind = .ioError := by
  cases f <;> simp [Failure.info, Failure.kind]

/-- R179. The failure path from a sound `EMPTY` state meets the clause for `FAILED`. -/
theorem Cartridge.EmptyClause.fail {c : Cartridge} (h : c.EmptyClause) (f : Failure) : (c.fail f).FailedClause := by
  obtain ⟨_, _, _, hfname, hraw, hhv, hderived⟩ := h
  exact ⟨rfl, ⟨f.kind, rfl, f.info_isSome_iff⟩, hfname, hraw, hhv, hderived⟩

/-- R121, R127. The commit of a decoded image from a sound `EMPTY` state meets the clause for `LOADED`. -/
theorem Cartridge.EmptyClause.loadDecoded {c : Cartridge} (h : c.EmptyClause) (cfg : Config) (path : Path) {img : Image}
    {hlen : hdrEnd ≤ img.length} {hdr : HeaderRecord} (hd : decodeWindow (imageWindow img hlen) = some hdr) :
    (c.loadDecoded cfg path img hlen hdr).LoadedClause cfg := by
  obtain ⟨_, _, hcause, _⟩ := h
  have htitle : Claims.TitleAscii img :=
    (decodeWindow_imageWindow_isSome_iff img hlen).mp (Option.isSome_of_eq_some hd)
  exact ⟨rfl, rfl, hcause, rfl, rfl, img, hdr, hlen, rfl, rfl, hd, htitle, rfl, rfl, rfl, rfl⟩

/-- R38. A step keeps the invariant. -/
theorem step_keeps_inv {s t : State} (hinv : s.Inv) (h : step s = .next t) : t.Inv := by
  obtain ⟨hcfg, hcart | ⟨_, _, _, _, _, hw⟩⟩ := step_cart_cases h
  · rwa [State.Inv, hcart, hcfg]
  · cases hw with
    | clear _ hc => exact State.inv_of_clear hc
    | fail f hst _ hc => exact .inr (.inr (hc ▸ (hinv.emptyClause hst).fail f))
    | commit path img hlen hdr hst _ hd hc =>
      refine .inr (.inl ?_)
      rw [hc, hcfg]
      exact (hinv.emptyClause hst).loadDecoded s.cfg path hd

end Sys2Proof.Machine

/-! SUPPORT. The byte `STATUS` in each load state (R34). -/

namespace Sys2Proof.Machine

theorem Cartridge.status_empty {c : Cartridge} (hst : c.st = .empty) (herr : c.err = .none) : c.status = 0x00 := by
  simp [Cartridge.status, Cartridge.statusCkok, hst, herr, LoadState.code, Err.code]

theorem Cartridge.status_loaded {c : Cartridge} {ok : Bool} (hst : c.st = .loaded) (herr : c.err = .none)
    (hck : c.ckOk = some ok) : c.status = if ok then 0x21 else 0x01 := by
  cases ok <;> simp [Cartridge.status, Cartridge.statusCkok, hst, herr, hck, LoadState.code, Err.code]

theorem Cartridge.status_failed {c : Cartridge} {k : FailKind} (hst : c.st = .failed) (herr : c.err = .failed k) :
    c.status = (0 : BitVec 3) ++ k.code ++ (2 : BitVec 2) := by
  simp [Cartridge.status, Cartridge.statusCkok, hst, herr, LoadState.code, Err.code]

end Sys2Proof.Machine

/-! The statements on the state: reset, the command port, the invariant of R38, `STATUS` and `REPORT`. -/

namespace Sys2Proof.Proofs

open Sys2Proof.Machine

/-- Settles O44: a step keeps R38, by the three ways it can write the architectural state, and the clauses exclude each
other by `ST`. -/
theorem stepKeepsSoundState : Obligations.StepKeepsSoundState := by
  intro s t hinv h
  refine ⟨step_keeps_inv hinv h, ?_, ?_, ?_⟩
  · rintro ⟨⟨he, _⟩, hl, _⟩
    cases he.symm.trans hl
  · rintro ⟨⟨he, _⟩, hf, _⟩
    cases he.symm.trans hf
  · rintro ⟨⟨hl, _⟩, hf, _⟩
    cases hl.symm.trans hf

/-- Settles O35, clause by clause of R38. -/
theorem statusIsLegalByte : Obligations.StatusIsLegalByte := by
  intro s hinv
  obtain ⟨hst, herr, _⟩ | hloaded | ⟨hst, ⟨k, herr, _⟩, _⟩ := hinv
  · exact .inl ⟨Cartridge.status_empty hst herr, hst⟩
  · obtain ⟨ok, hck⟩ := hloaded.exists_ckOk
    obtain ⟨hst, herr, _⟩ := hloaded
    have hstatus := Cartridge.status_loaded hst herr hck
    cases ok with
    | false => exact .inr (.inl ⟨hstatus, hst, hck⟩)
    | true => exact .inr (.inr (.inl ⟨hstatus, hst, hck⟩))
  · have hstatus := Cartridge.status_failed hst herr
    refine .inr (.inr (.inr ?_))
    cases k with
    | notFound => exact .inl ⟨hstatus, hst, herr⟩
    | ioError => exact .inr (.inl ⟨hstatus, hst, herr⟩)
    | truncatedImage => exact .inr (.inr (.inl ⟨hstatus, hst, herr⟩))
    | formatError => exact .inr (.inr (.inr ⟨hstatus, hst, herr⟩))

/-- Settles O48: of the ways a step can write the architectural state only the commit of a LOAD ends `LOADED`, and only
it appends to `REPORT`. -/
theorem reportGrowsOnlyByLoad : Obligations.ReportGrowsOnlyByLoad := by
  intro s t h
  obtain ⟨_, hcart | ⟨r, rest, i, hcmds, hdec, hw⟩⟩ := step_cart_cases h
  · refine .inl ⟨by rw [hcart], ?_⟩
    rintro ⟨hs, ht⟩
    rw [hcart, hs] at ht
    cases ht
  · cases hw with
    | clear _ hc => exact .inl (by simp [hc])
    | fail f _ _ hc => exact .inl (by simp [hc])
    | commit path img hlen hdr hst hi _ hc =>
      subst hi
      exact .inr ⟨hst, by rw [hc]; rfl, ⟨_, by rw [hc]; rfl⟩, r, rest, path, img, hcmds, hdec⟩

/-- Settles O7: it is the command case of the step. -/
theorem stepRunsDecodedCommand : Obligations.StepRunsDecodedCommand :=
  fun _ _ _ _ hcmds hdec => step_of_decode_ok hcmds hdec

/-- Settles O43: reset is the state CLEAR produces (R195), and with no image loaded there is nothing to tie. -/
theorem resetIsSound : Obligations.ResetIsSound :=
  ⟨State.inv_of_clear (c := Cartridge.empty) rfl, fun hst => nomatch hst⟩

end Sys2Proof.Proofs

/-! SUPPORT. The header window as the one thing LOAD sees of an image: what an image's window and checksum depend on,
and LOAD with `SRC = OK` case by case. -/

namespace Sys2Proof.Machine

/-- R49. Two images that agree on 0x100 to 0x14F have one header window. -/
theorem imageWindow_congr {img img' : Image} (hlen : hdrEnd ≤ img.length) (hlen' : hdrEnd ≤ img'.length)
    (h : ∀ a, 0x100 ≤ a → a < 0x150 → img[a]? = img'[a]?) : imageWindow img hlen = imageWindow img' hlen' := by
  refine Vector.ext fun r hr => ?_
  have hbyte : img[hdrBase + r]? = img'[hdrBase + r]? := h (0x100 + r) (by omega) (by omega)
  rw [imageWindow_getElem img hlen r hr, imageWindow_getElem img' hlen' r hr]
  rwa [List.getElem?_eq_getElem, List.getElem?_eq_getElem, Option.some_inj] at hbyte

/-- R46, R50. The checksum is a sum over the header window alone, of its 25 bytes from offset 0x34 on. -/
theorem ckSum_eq_foldl_imageWindow (img : Image) (hlen : hdrEnd ≤ img.length) (hck : ckLast < img.length) :
    ckSum img hck = (((imageWindow img hlen).toList.drop 0x34).take 25).foldl (fun acc b => acc + b) 0 := by
  have hbytes : (memRead img ckFirst ckCount hck).toList = ((imageWindow img hlen).toList.drop 0x34).take 25 := by
    simp [imageWindow, hdrLen, List.drop_take, List.take_take]
  rw [ckSum, hbytes]

/-- R44. A slice of a byte sequence, read byte by byte at rising offsets. -/
theorem take_drop_eq_map_range' (bs : List Byte) (a n : Nat) (h : a + n ≤ bs.length) :
    (bs.drop a).take n = (List.range' a n).map fun r => bs[r]?.getD 0 := by
  apply List.ext_getElem
  · simp; omega
  · intro i hi _
    have hin : a + i < bs.length := by simp at hi; omega
    simp [List.getElem?_eq_getElem hin]

/-- R50, R101. Images with one header window pass or fail the checksum test together. -/
theorem verify_congr_imageWindow {img img' : Image} {hlen : hdrEnd ≤ img.length} {hlen' : hdrEnd ≤ img'.length}
    (hw : imageWindow img hlen = imageWindow img' hlen') (stored : Byte) (hck : ckLast < img.length)
    (hck' : ckLast < img'.length) : verify img stored hck = verify img' stored hck' := by
  rw [verify, verify, ckSum_eq_foldl_imageWindow img hlen, ckSum_eq_foldl_imageWindow img' hlen', hw]

/-- R133. LOAD is refused outside `EMPTY`. -/
theorem execLoad_of_not_empty (path : Path) (src : Src) (img : Image) {s : State} (hst : s.cart.st ≠ .empty) :
    execLoad path src img s = .next (s.respond .refused) := by
  simp only [execLoad, if_neg hst]

/-- R124. LOAD of an image whose header window does not decode fails. -/
theorem execLoad_of_decode_none (path : Path) {img : Image} {s : State} (hst : s.cart.st = .empty)
    (hlen : hdrEnd ≤ img.length) (hd : decodeWindow (imageWindow img hlen) = none) :
    execLoad path .ok img s = .next (s.raise .formatError) := by
  simp only [execLoad, if_pos hst, dif_pos hlen, hd]

/-- R121. LOAD of an image whose header window decodes commits it. -/
theorem execLoad_of_decode_some (path : Path) {img : Image} {s : State} {hdr : HeaderRecord}
    (hst : s.cart.st = .empty) (hlen : hdrEnd ≤ img.length) (hd : decodeWindow (imageWindow img hlen) = some hdr) :
    execLoad path .ok img s =
      .next ((s.setCart (s.cart.loadDecoded s.cfg path img hlen hdr)).respond (.done .nothing)) := by
  simp only [execLoad, if_pos hst, dif_pos hlen, hd]

/-- R48. What a decoded image commits beside `RAW` is a matter of its header window. -/
theorem Cartridge.loadDecoded_congr_but_raw {img img' : Image} {hlen : hdrEnd ≤ img.length}
    {hlen' : hdrEnd ≤ img'.length} (hw : imageWindow img hlen = imageWindow img' hlen') (cfg : Config) (path : Path)
    (hdr : HeaderRecord) (c : Cartridge) :
    { c.loadDecoded cfg path img hlen hdr with raw := none } =
      { c.loadDecoded cfg path img' hlen' hdr with raw := none } := by
  simp only [Cartridge.loadDecoded, Cartridge.commit,
    verify_congr_imageWindow hw hdr.hck _ (Nat.lt_of_lt_of_le (by decide) hlen')]

end Sys2Proof.Machine

/-! The statements on the image as LOAD and the checksum engine see it (`20_memory.md`). -/

namespace Sys2Proof.Proofs

open Sys2Proof.Machine

/-- Settles O19: the 25 summed bytes are a slice of the header window, whose bytes are then read one by one. -/
theorem checksumSeesWindowBytes : Obligations.ChecksumSeesWindowBytes := by
  intro img hlen hck
  rw [ckSum_eq_foldl_imageWindow img hlen hck, take_drop_eq_map_range' _ _ _ (by simp), List.foldl_map]
  simp only [Vector.getElem?_toList, imageWindow]

/-- Settles O33: the two images have one header window, so LOAD is refused, fails to decode or commits for both. -/
theorem loadReadsOnlyHeaderBytes : Obligations.LoadReadsOnlyHeaderBytes := by
  intro path img img' s hlen hlen' hagree
  have hw : imageWindow img hlen = imageWindow img' hlen' := imageWindow_congr hlen hlen' hagree
  by_cases hst : s.cart.st = .empty
  · cases hd : decodeWindow (imageWindow img hlen) with
    | none =>
      exact ⟨_, _, execLoad_of_decode_none path hst hlen hd, execLoad_of_decode_none path hst hlen' (hw ▸ hd), rfl⟩
    | some hdr =>
      refine ⟨_, _, execLoad_of_decode_some path hst hlen hd, execLoad_of_decode_some path hst hlen' (hw ▸ hd), ?_⟩
      exact congrArg (fun c => (s.setCart c).respond (.done .nothing))
        (Cartridge.loadDecoded_congr_but_raw hw s.cfg path hdr s.cart)
  · exact ⟨_, _, execLoad_of_not_empty path .ok img hst, execLoad_of_not_empty path .ok img' hst, rfl⟩

end Sys2Proof.Proofs

/-! SUPPORT. The decoder class by class (R68): which commands a class decodes to and which selectors it leaves reserved,
and so the two facts about every command byte. -/

namespace Sys2Proof.Machine

/-- R68. A command byte is its class and its selector. -/
theorem cmdClass_cmdSelector (cmd : Byte) :
    cmd.toNat = 32 * cmdClass cmd + cmdSelector cmd ∧ cmdSelector cmd < 32 := by
  have h := cmd.isLt
  simp only [cmdClass, cmdSelector, BitVec.extractLsb'_toNat, Nat.shiftRight_eq_div_pow]
  omega

/-- R68. A command's byte, with its operands on the ports its row names, decodes to it, whatever the other ports hold. -/
theorem decodeCommand_byte_onPorts (i : Instr) (p : Ports) : decodeCommand i.byte (i.onPorts p) = some i := by
  cases i <;> dsimp only [Instr.byte, Instr.onPorts] <;> rfl

/-- R68. Class `000` decodes a selector to the command of that byte. -/
theorem decodeControl_eq_some {p : Ports} {sel : Nat} {i : Instr} (h : decodeControl p sel = some i) :
    i.byte.toNat = sel ∧ i.onPorts p = p := by
  unfold decodeControl at h
  split at h <;> cases h <;> exact ⟨rfl, rfl⟩

/-- R68. Class `001` decodes a selector to the command of the byte `0x20 + sel`. -/
theorem decodeRead_eq_some {p : Ports} {sel : Nat} {i : Instr} (h : decodeRead p sel = some i) :
    i.byte.toNat = 0x20 + sel ∧ i.onPorts p = p := by
  unfold decodeRead at h
  split at h <;> cases h <;> exact ⟨rfl, rfl⟩

/-- R68. Class `010` decodes a selector to the command of the byte `0x40 + sel`. -/
theorem decodeUnit_eq_some {p : Ports} {sel : Nat} {i : Instr} (h : decodeUnit p sel = some i) :
    i.byte.toNat = 0x40 + sel ∧ i.onPorts p = p := by
  unfold decodeUnit at h
  split at h <;> cases h <;> exact ⟨rfl, rfl⟩

/-- R70. The selectors class `000` leaves reserved. -/
theorem decodeControl_eq_none_iff (p : Ports) (sel : Nat) : decodeControl p sel = none ↔ 0x02 ≤ sel := by
  unfold decodeControl
  split <;> simp only [imp_false, reduceCtorEq, true_iff, false_iff] at * <;> omega

/-- R70. The selectors class `001` leaves reserved. -/
theorem decodeRead_eq_none_iff (p : Ports) (sel : Nat) : decodeRead p sel = none ↔ 0x17 ≤ sel := by
  unfold decodeRead
  split <;> simp only [imp_false, reduceCtorEq, true_iff, false_iff] at * <;> omega

/-- R70. The selectors class `010` leaves reserved. -/
theorem decodeUnit_eq_none_iff (p : Ports) (sel : Nat) : decodeUnit p sel = none ↔ 0x05 ≤ sel := by
  unfold decodeUnit
  split <;> simp only [imp_false, reduceCtorEq, true_iff, false_iff] at * <;> omega

/-- R68. What decodes to a command is that command's byte, with its operands on the ports its row names. -/
theorem decodeCommand_eq_some {cmd : Byte} {p : Ports} {i : Instr} (h : decodeCommand cmd p = some i) :
    i.byte = cmd ∧ i.onPorts p = p := by
  obtain ⟨hcmd, _⟩ := cmdClass_cmdSelector cmd
  unfold decodeCommand at h
  split at h
  case h_1 hclass =>
    obtain ⟨hbyte, hports⟩ := decodeControl_eq_some h
    exact ⟨BitVec.eq_of_toNat_eq (by omega), hports⟩
  case h_2 hclass =>
    obtain ⟨hbyte, hports⟩ := decodeRead_eq_some h
    exact ⟨BitVec.eq_of_toNat_eq (by omega), hports⟩
  case h_3 hclass =>
    obtain ⟨hbyte, hports⟩ := decodeUnit_eq_some h
    exact ⟨BitVec.eq_of_toNat_eq (by omega), hports⟩
  case h_4 => cases h

/-- R70. The reserved bytes: what a class leaves after its last selector, and the classes without commands. -/
theorem decodeCommand_eq_none_iff (cmd : Byte) (p : Ports) :
    decodeCommand cmd p = none ↔
      (0x02 ≤ cmd.toNat ∧ cmd.toNat ≤ 0x1F) ∨ (0x37 ≤ cmd.toNat ∧ cmd.toNat ≤ 0x3F) ∨ 0x45 ≤ cmd.toNat := by
  obtain ⟨hcmd, hsel⟩ := cmdClass_cmdSelector cmd
  unfold decodeCommand
  split
  case h_1 hclass =>
    rw [decodeControl_eq_none_iff]
    omega
  case h_2 hclass =>
    rw [decodeRead_eq_none_iff]
    omega
  case h_3 hclass =>
    rw [decodeUnit_eq_none_iff]
    omega
  case h_4 h0 h1 h2 =>
    simp only [imp_false, true_iff] at *
    omega

theorem decode_eq_ok_iff (r : Request) (i : Instr) : decode r = .ok i ↔ decodeCommand r.cmd r.ports = some i := by
  cases hd : decodeCommand r.cmd r.ports <;> simp [decode, hd]

theorem exists_decode_eq_error_iff (r : Request) :
    (∃ e, decode r = .error e) ↔ decodeCommand r.cmd r.ports = none := by
  cases hd : decodeCommand r.cmd r.ports <;> simp [decode, hd]

/-- R67, R68. Decoding the encoding of a command gives it back. -/
theorem decode_encode (i : Instr) : decode (encode i) = .ok i :=
  (decode_eq_ok_iff _ i).mpr (decodeCommand_byte_onPorts i Ports.idle)

end Sys2Proof.Machine

/-! SUPPORT. Every command has a next state; a step that takes a CLEAR; a run of steps one step at a time. -/

namespace Sys2Proof.Machine

/-- R132, R201. LOAD ends in a next state whatever its operands. -/
theorem execLoad_exists_next (path : Path) (src : Src) (img : Image) (s : State) :
    ∃ t, execLoad path src img s = .next t := by
  unfold execLoad
  split
  · split
    · exact ⟨_, rfl⟩
    · exact ⟨_, rfl⟩
    · split
      · split <;> exact ⟨_, rfl⟩
      · exact ⟨_, rfl⟩
  · exact ⟨_, rfl⟩

/-- R132, R201. Every command ends in a next state. -/
theorem exec_exists_next (i : Instr) (s : State) : ∃ t, exec i s = .next t := by
  obtain ⟨r, hr⟩ | rfl | ⟨path, src, img, rfl⟩ := exec_responds i s
  · exact ⟨_, hr⟩
  · exact ⟨_, rfl⟩
  · exact execLoad_exists_next path src img s

/-- R120, R181. A step that takes a CLEAR ends `EMPTY`, from whatever load state. -/
theorem step_of_clear {s : State} {rest : List Request} (hc : s.cmds = encode .clear :: rest) :
    ∃ t, step s = .next t ∧ t.cart.st = .empty ∧ t.cmds = rest ∧ t.out = s.out ++ [.done .nothing] :=
  ⟨_, step_of_decode_ok hc (decode_encode .clear), rfl, rfl, rfl⟩

theorem run_succ_of_step {s t : State} (h : step s = .next t) (k : Nat) :
    Host.Core.run Sys2Proof.core (k + 1) s = Host.Core.run Sys2Proof.core k t := by
  have hstep : Sys2Proof.core.step s = .next t := h
  simp only [Host.Core.run, hstep]

end Sys2Proof.Machine

/-! SUPPORT. The header record of a window, and what the trim of R64 keeps. -/

namespace Sys2Proof.Machine

/-- The record `Decode` answers for a window whose title region is ASCII (R91). -/
def windowRecord (w : Window) : HeaderRecord where
  entry  := windowSlice w 0x00 4 (by decide)
  logo   := windowSlice w 0x04 0x30 (by decide)
  title  := trimTitle (titleRegion w)
  newlic := bigEndian w[0x44] w[0x45]
  sgb    := w[0x46]
  ctype  := w[0x47]
  romsz  := w[0x48]
  ramsz  := w[0x49]
  dest   := w[0x4A]
  oldlic := w[0x4B]
  ver    := w[0x4C]
  hck    := w[0x4D]
  gck    := bigEndian w[0x4E] w[0x4F]

/-- R91. A window decodes exactly when its title region is ASCII, and then to its own record. -/
theorem decodeWindow_eq_some_iff (w : Window) (h : HeaderRecord) :
    decodeWindow w = some h ↔ (titleRegion w).all isAscii = true ∧ windowRecord w = h := by
  unfold decodeWindow
  split <;> simp_all [windowRecord]

/-- Byte `i` of the title region is window byte `0x34 + i` (R61). -/
theorem titleRegion_getElem (w : Window) (i : Nat) (hi : i < 16) :
    (titleRegion w)[i]'(by simpa [titleLen] using hi) = w[0x34 + i] :=
  windowSlice_getElem w 0x34 titleLen (by decide) i hi

theorem keptLen_cons (b : Byte) (bs : List Byte) :
    keptLen (b :: bs) = if b = 0 ∧ keptLen bs = 0 then 0 else keptLen bs + 1 := by
  rw [keptLen]
  cases keptLen bs <;> simp

theorem keptLen_eq_zero {t : List Byte} (h : ∀ b ∈ t, b = 0) : keptLen t = 0 := by
  induction t with
  | nil => rfl
  | cons b bs ih =>
    obtain ⟨hb, hbs⟩ := List.forall_mem_cons.mp h
    rw [keptLen_cons, if_pos ⟨hb, ih hbs⟩]

/-- R64. A region whose last byte that is not 0x00 follows the bytes `t` keeps these and it. -/
theorem keptLen_append_cons (t : List Byte) {b : Byte} {z : List Byte} (hb : b ≠ 0) (hz : ∀ b ∈ z, b = 0) :
    keptLen (t ++ b :: z) = t.length + 1 := by
  induction t with
  | nil => rw [List.nil_append, keptLen_cons, keptLen_eq_zero hz, if_neg fun h => hb h.1]; rfl
  | cons x xs ih => simp [keptLen_cons, ih]

/-- R64. The trim of a region whose last byte that is not 0x00 is byte `i`. -/
theorem trimTitle_eq_take {t : List Byte} {i : Nat} (hi : i < t.length) (hb : t[i] ≠ 0)
    (hz : ∀ b ∈ t.drop (i + 1), b = 0) : trimTitle t = t.take (i + 1) := by
  have hkept : keptLen t = i + 1 := by
    have h := keptLen_append_cons (t.take i) hb hz
    rwa [List.getElem_cons_drop, List.take_append_drop, List.length_take_of_le hi.le] at h
  rw [trimTitle, hkept]

end Sys2Proof.Machine

/-! The statements on the encodings: the command map of format K, the step it feeds, the header map of format H
(`30_encoding.md`). -/

namespace Sys2Proof.Proofs

open Sys2Proof.Machine

/-- Settles O5: a request that decodes to a command is a byte and ports that do. -/
theorem decodedCommandKeepsItsByte : Obligations.DecodedCommandKeepsItsByte :=
  fun r i h => decodeCommand_eq_some ((decode_eq_ok_iff r i).mp h)

/-- Settles O9, by the three cases of the step. -/
theorem everyStepGivesOneResponse : Obligations.EveryStepGivesOneResponse := by
  intro s
  cases hc : s.cmds with
  | nil => exact ⟨s, step_of_no_request hc, rfl, fun _ => rfl, nofun⟩
  | cons r rest =>
    cases hd : decode r with
    | error e =>
      refine ⟨_, step_of_decode_error hc hd, rfl, nofun, ?_⟩
      rintro _ _ ⟨⟩
      exact ⟨rfl, _, rfl⟩
    | ok i =>
      obtain ⟨t, ht⟩ := exec_exists_next i { s with cmds := rest }
      obtain ⟨hcfg, hcmds, hout⟩ := exec_frame ht
      refine ⟨t, (step_of_decode_ok hc hd).trans ht, hcfg, nofun, ?_⟩
      rintro _ _ ⟨⟩
      exact ⟨hcmds, hout⟩

/-- Settles O11: an all-0x00 region keeps no byte, and one whose last byte other than 0x00 is byte `i` keeps `i + 1`. -/
theorem titleDropsOnlyTrailingNul : Obligations.TitleDropsOnlyTrailingNul := by
  intro w h hd
  obtain ⟨_, rfl⟩ := (decodeWindow_eq_some_iff w h).mp hd
  constructor
  · intro hzero
    have hkept : keptLen (titleRegion w) = 0 := keptLen_eq_zero fun b hb => by
      obtain ⟨i, hi, rfl⟩ := List.mem_iff_getElem.mp hb
      have hi : i < 16 := by simpa [titleLen] using hi
      rw [titleRegion_getElem w i hi, hzero i hi]
    simp [windowRecord, trimTitle, hkept]
  · intro i hi hne htail
    have htrim : trimTitle (titleRegion w) = (titleRegion w).take (i + 1) := by
      refine trimTitle_eq_take (by simpa [titleLen] using hi) (by rwa [titleRegion_getElem w i hi]) fun b hb => ?_
      obtain ⟨k, hk, rfl⟩ := List.mem_drop_iff_getElem.mp hb
      have hk : i + 1 + k < 16 := by simpa [titleLen, Nat.add_comm] using hk
      rw [titleRegion_getElem w (i + 1 + k) hk, htail (i + 1 + k) hk (by omega)]
    rw [windowRecord, htrim, titleRegion, windowSlice_toList, List.take_take, Nat.min_eq_left hi]

/-- Settles O31: CLEAR ends `EMPTY`, from where LOAD of an image whose window decodes commits it. -/
theorem clearThenLoadSucceeds : Obligations.ClearThenLoadSucceeds := by
  intro path img s rest hlen htitle hcmds
  obtain ⟨hdr, hd⟩ := Option.isSome_iff_exists.mp ((decodeWindow_imageWindow_isSome_iff img hlen).mpr htitle)
  obtain ⟨t, hclear, hst, hcmds', hout⟩ := step_of_clear hcmds
  have hload := (step_of_decode_ok hcmds' (decode_encode _)).trans
    (execLoad_of_decode_some path (s := { t with cmds := rest }) hst hlen hd)
  refine ⟨_, (run_succ_of_step hclear 1).trans (run_succ_of_step hload 0), rfl, rfl, rfl, rfl, ?_⟩
  simp [hout]

/-- Settles O3, row by row: each is the decoder at one byte. -/
theorem commandMap : Obligations.CommandMap := by
  intro p
  and_intros <;> rfl

/-- Settles O4. -/
theorem commandRoundTrip : Obligations.CommandRoundTrip :=
  decode_encode

/-- Settles O6: the reserved bytes are those no class decodes, and a step answers them `REFUSED`. -/
theorem reservedByteIsRefused : Obligations.ReservedByteIsRefused :=
  ⟨fun r => (exists_decode_eq_error_iff r).trans (decodeCommand_eq_none_iff r.cmd r.ports),
    fun _ _ _ hcmds ⟨_, hd⟩ => step_of_decode_error hcmds hd⟩

/-- Settles O10. -/
theorem halfFieldsAreBigEndian : Obligations.HalfFieldsAreBigEndian := by
  intro w h hd
  obtain ⟨_, rfl⟩ := (decodeWindow_eq_some_iff w h).mp hd
  exact ⟨bigEndian_toNat _ _, bigEndian_toNat _ _⟩

/-- Settles O13: the byte fields are window bytes, the two arrays slices of the window. -/
theorem fieldsAreCopiedByOffset : Obligations.FieldsAreCopiedByOffset := by
  intro w h hd
  obtain ⟨_, rfl⟩ := (decodeWindow_eq_some_iff w h).mp hd
  refine ⟨fun i hi => ?_, windowSlice_getElem w 0x04 0x30 (by decide), rfl, rfl, rfl, rfl, rfl, rfl, rfl, rfl⟩
  simpa [windowRecord] using windowSlice_getElem w 0x00 4 (by decide) i hi

end Sys2Proof.Proofs

/-! SUPPORT. The two directions of the header window (R91, R93) part by part: the title and its padding, the two bytes
of a 16-bit field, and the window as its fields in the order of their offsets. -/

namespace Sys2Proof.Machine

theorem trimTitle_concat_zero (t : List Byte) : trimTitle (t ++ [0]) = trimTitle t := by
  have hkept : keptLen (t ++ [0]) = keptLen t := by
    induction t with
    | nil => rfl
    | cons b bs ih => rw [List.cons_append, keptLen_cons, keptLen_cons, ih]
  rw [trimTitle, hkept, List.take_append_of_le_length (keptLen_le t), trimTitle]

theorem trimTitle_concat_of_ne_zero (t : List Byte) {b : Byte} (hb : b ≠ 0) : trimTitle (t ++ [b]) = t ++ [b] := by
  rw [trimTitle, keptLen_append_cons t hb (List.forall_mem_nil _), List.take_of_length_le (by simp)]

/-- R19. The last byte of a trimmed title is not 0x00. -/
theorem trimTitle_getLast?_ne_zero (t : List Byte) : (trimTitle t).getLast? ≠ some 0 := by
  induction t using List.reverseRecOn with
  | nil => exact nofun
  | append_singleton t b ih =>
    by_cases hb : b = 0
    · rwa [hb, trimTitle_concat_zero]
    · rw [trimTitle_concat_of_ne_zero t hb, List.getLast?_concat]
      exact fun h => hb (Option.some.inj h)

/-- R64. What the trim removes is 0x00 bytes. -/
theorem trimTitle_append_zeros (t : List Byte) :
    trimTitle t ++ List.replicate (t.length - (trimTitle t).length) 0 = t := by
  obtain ⟨n, hn⟩ : ∃ n, trimTitle t ++ List.replicate n 0 = t := by
    induction t using List.reverseRecOn with
    | nil => exact ⟨0, rfl⟩
    | append_singleton t b ih =>
      by_cases hb : b = 0
      · obtain ⟨n, hn⟩ := ih
        exact ⟨n + 1, by rw [hb, trimTitle_concat_zero, List.replicate_succ', ← List.append_assoc, hn]⟩
      · exact ⟨0, by rw [trimTitle_concat_of_ne_zero t hb, List.replicate_zero, List.append_nil]⟩
  have hlen : t.length - (trimTitle t).length = n := by
    have hlen := congrArg List.length hn
    rw [List.length_append, List.length_replicate] at hlen
    omega
  rw [hlen, hn]

/-- R64. A title that does not end in 0x00 is what the trim leaves of it, whatever number of 0x00 bytes follow. -/
theorem trimTitle_append_replicate {t : List Byte} (ht : t.getLast? ≠ some 0) (n : Nat) :
    trimTitle (t ++ List.replicate n 0) = t := by
  induction n with
  | zero =>
    rw [List.replicate_zero, List.append_nil]
    obtain rfl | ⟨u, b, rfl⟩ := List.eq_nil_or_concat t
    · rfl
    · rw [List.concat_eq_append] at *
      rw [List.getLast?_concat] at ht
      exact trimTitle_concat_of_ne_zero u fun hb => ht (congrArg some hb)
  | succ n ih => rw [List.replicate_succ', ← List.append_assoc, trimTitle_concat_zero, ih]

/-- R93. A title of at most 16 bytes is padded at its end and not cut. -/
theorem padTitle_toList {t : List Byte} (ht : t.length ≤ titleLen) :
    (padTitle t).toList = t ++ List.replicate (titleLen - t.length) 0 := by
  simp [padTitle, List.take_append, List.take_of_length_le ht]

/-- R64, R93. Padding undoes the trim of a title region. -/
theorem padTitle_trimTitle {t : List Byte} (ht : t.length = titleLen) : (padTitle (trimTitle t)).toList = t := by
  have hle : (trimTitle t).length ≤ titleLen := ht ▸ List.length_take_le' _ _
  rw [padTitle_toList hle, ← ht, trimTitle_append_zeros]

theorem halfBytes_bigEndian (hi lo : Byte) : halfBytes (bigEndian hi lo) = [hi, lo] := by
  rw [halfBytes, bigEndian, BitVec.extractLsb'_append_eq_left, BitVec.extractLsb'_append_eq_right]

theorem bigEndian_halfBytes (x : Half) : bigEndian (x.extractLsb' 8 8) (x.extractLsb' 0 8) = x :=
  BitVec.extractLsb'_append_extractLsb'

/-- R63. The two bytes of a 16-bit field as numbers. -/
theorem halfBytes_eq (x : Half) :
    halfBytes x = [BitVec.ofNat 8 (x.toNat / 256), BitVec.ofNat 8 (x.toNat % 256)] := by
  have hhi : x.extractLsb' 8 8 = BitVec.ofNat 8 (x.toNat / 256) :=
    BitVec.eq_of_toNat_eq (by simp [Nat.shiftRight_eq_div_pow])
  have hlo : x.extractLsb' 0 8 = BitVec.ofNat 8 (x.toNat % 256) := BitVec.eq_of_toNat_eq (by simp)
  rw [halfBytes, hhi, hlo]

/-- R61. A window is its fields in the order of their offsets. -/
theorem window_toList_eq (w : Window) :
    w.toList = (windowSlice w 0x00 4 (by decide)).toList ++ (windowSlice w 0x04 0x30 (by decide)).toList ++
      titleRegion w ++ [w[0x44], w[0x45], w[0x46], w[0x47], w[0x48], w[0x49], w[0x4A], w[0x4B], w[0x4C], w[0x4D],
        w[0x4E], w[0x4F]] := by
  have htail : w.toList.drop 0x44 = [w[0x44], w[0x45], w[0x46], w[0x47], w[0x48], w[0x49], w[0x4A], w[0x4B], w[0x4C],
      w[0x4D], w[0x4E], w[0x4F]] := by
    apply List.ext_getElem
    · simp
    · intro i hi hi'
      simp only [List.length_cons, List.length_nil] at hi'
      simp only [List.getElem_drop, Vector.getElem_toList]
      interval_cases i <;> rfl
  simp only [← htail, titleRegion, windowSlice_toList, List.drop_zero]
  rw [← List.take_add, ← List.take_add]
  exact (List.take_append_drop 0x44 _).symm

/-- R93. The bytes `EncodeWindow` lays out, as the fields they come from. -/
theorem encodeWindow_toList (h : HeaderRecord) :
    (encodeWindow h).toList = h.entry.toList ++ h.logo.toList ++ (padTitle h.title).toList ++
      (halfBytes h.newlic ++ [h.sgb, h.ctype, h.romsz, h.ramsz, h.dest, h.oldlic, h.ver, h.hck] ++
        halfBytes h.gck) := by
  simp [encodeWindow]

/-- R93. Encoding the record of a window gives the window back, whether or not its title is ASCII. -/
theorem encodeWindow_windowRecord (w : Window) : encodeWindow (windowRecord w) = w := by
  rw [← Vector.toList_inj, encodeWindow_toList, window_toList_eq w]
  simp only [windowRecord, padTitle_trimTitle (titleRegion_length w), halfBytes_bigEndian, List.cons_append,
    List.nil_append]

theorem titleRegion_encodeWindow (h : HeaderRecord) : titleRegion (encodeWindow h) = (padTitle h.title).toList := by
  have hw := (window_toList_eq (encodeWindow h)).symm.trans (encodeWindow_toList h)
  exact List.append_inj_right (List.append_inj_left' hw (by simp [halfBytes])) (by simp)

/-- R91, R93. The record of an encoded window is the record encoded, if its title is one the trim leaves alone. -/
theorem windowRecord_encodeWindow {h : HeaderRecord} (hlen : h.title.length ≤ titleLen)
    (hlast : h.title.getLast? ≠ some 0) : windowRecord (encodeWindow h) = h := by
  have hw := (window_toList_eq (encodeWindow h)).symm.trans (encodeWindow_toList h)
  obtain ⟨hfront, htail⟩ := List.append_inj' hw (by simp [halfBytes])
  obtain ⟨hentry, hlogo⟩ := List.append_inj (List.append_inj_left hfront (by simp)) (by simp)
  have htrim : trimTitle (titleRegion (encodeWindow h)) = h.title := by
    rw [titleRegion_encodeWindow, padTitle_toList hlen, trimTitle_append_replicate hlast]
  rw [Vector.toList_inj] at hentry hlogo
  simp only [halfBytes, List.cons_append, List.nil_append, List.cons.injEq, and_true] at htail
  simp only [windowRecord, hentry, hlogo, htrim, htail, bigEndian_halfBytes]

/-- R19. What a well-formed record says of its title. -/
theorem headerRecord_wellFormed_iff (h : HeaderRecord) :
    h.wellFormed = true ↔
      h.title.length ≤ titleLen ∧ (∀ b ∈ h.title, b.toNat ≤ 0x7F) ∧ h.title.getLast? ≠ some 0 := by
  simp [HeaderRecord.wellFormed, and_assoc]

/-- R91, R93. Decoding the encoding of a well-formed record gives the record back. -/
theorem decodeWindow_encodeWindow {h : HeaderRecord} (hwf : h.wellFormed = true) :
    decodeWindow (encodeWindow h) = some h := by
  obtain ⟨hlen, hascii, hlast⟩ := (headerRecord_wellFormed_iff h).mp hwf
  refine (decodeWindow_eq_some_iff _ h).mpr ⟨List.all_eq_true.mpr fun b hb => ?_, windowRecord_encodeWindow hlen hlast⟩
  rw [titleRegion_encodeWindow, padTitle_toList hlen, List.mem_append, List.mem_replicate] at hb
  obtain hb | ⟨_, rfl⟩ := hb
  · exact decide_eq_true (hascii b hb)
  · rfl

/-- R93. Encoding what a window decodes to gives the window back. -/
theorem encodeWindow_of_decodeWindow {w : Window} {h : HeaderRecord} (hd : decodeWindow w = some h) :
    encodeWindow h = w := by
  obtain ⟨_, rfl⟩ := (decodeWindow_eq_some_iff w h).mp hd
  exact encodeWindow_windowRecord w

/-- R19, R91. A window decodes to well-formed records only. -/
theorem wellFormed_of_decodeWindow {w : Window} {h : HeaderRecord} (hd : decodeWindow w = some h) :
    h.wellFormed = true := by
  obtain ⟨hascii, rfl⟩ := (decodeWindow_eq_some_iff w h).mp hd
  have hpre : (windowRecord w).title <+: titleRegion w := List.take_prefix _ _
  refine (headerRecord_wellFormed_iff _).mpr ⟨?_, fun b hb => ?_, trimTitle_getLast?_ne_zero _⟩
  · exact (titleRegion_length w) ▸ hpre.length_le
  · exact of_decide_eq_true (List.all_eq_true.mp hascii b (hpre.subset hb))

/-- R61. What holds of every byte of the title region, by window offset. -/
theorem forall_mem_titleRegion_iff (w : Window) (P : Byte → Prop) :
    (∀ b ∈ titleRegion w, P b) ↔ ∀ i (_ : i < 16), P w[0x34 + i] := by
  simp only [List.forall_mem_iff_forall_getElem, titleRegion_length]
  exact forall₂_congr fun i hi => by rw [titleRegion_getElem w i hi]

/-- R91, R65. A window decodes exactly when its 16 title bytes are ASCII. -/
theorem exists_decodeWindow_eq_some_iff (w : Window) :
    (∃ h, decodeWindow w = some h) ↔ ∀ i (_ : i < 16), w[0x34 + i].toNat ≤ 0x7F := by
  rw [← Option.isSome_iff_exists, decodeWindow_isSome_iff, forall_mem_titleRegion_iff]

/-- R90. `U.DECODE` of a window that decodes. -/
theorem exec_uDecode_of_some {w : Window} {h : HeaderRecord} (hd : decodeWindow w = some h) (s : State) :
    exec (.uDecode w) s = .next (s.respond (.done (.record h))) := by
  simp only [exec, execUDecode, hd]

/-- R90. `U.DECODE` of a window that does not decode. -/
theorem exec_uDecode_of_none {w : Window} (hd : decodeWindow w = none) (s : State) :
    exec (.uDecode w) s = .next (s.respond (.err .formatError none)) := by
  simp only [exec, execUDecode, hd]

end Sys2Proof.Machine

/-! The statements on the header decoder (`40_decode.md`). -/

namespace Sys2Proof.Proofs

open Sys2Proof.Machine

/-- Settles O14, from the two directions and the layout of the encoded window. -/
theorem headerWindowRoundTrip : Obligations.HeaderWindowRoundTrip := by
  refine ⟨fun h hwf => ⟨?_, decodeWindow_encodeWindow hwf⟩, fun _ _ hd => encodeWindow_of_decodeWindow hd⟩
  obtain ⟨hlen, _, _⟩ := (headerRecord_wellFormed_iff h).mp hwf
  rw [encodeWindow_toList, padTitle_toList hlen, halfBytes_eq, halfBytes_eq]
  rfl

/-- Settles O12: it is the negation of decoding, which asks that every title byte be ASCII. -/
theorem decodeFailsExactlyOnNonAsciiTitle : Obligations.DecodeFailsExactlyOnNonAsciiTitle := by
  intro w
  rw [← not_iff_not, ← ne_eq, Option.ne_none_iff_exists', exists_decodeWindow_eq_some_iff]
  push Not
  exact forall₂_congr fun _ _ => Nat.lt_succ_iff.symm

/-- Settles O15: two windows that decode to one record are both its encoding. -/
theorem decodeIsInjective : Obligations.DecodeIsInjective :=
  fun _ _ hd => ⟨wellFormed_of_decodeWindow hd, fun _ hd' =>
    (encodeWindow_of_decodeWindow hd').symm.trans (encodeWindow_of_decodeWindow hd)⟩

/-- Settles O16, by whether the window decodes. -/
theorem uDecodeAnswersRecord : Obligations.UDecodeAnswersRecord := by
  refine ⟨fun _ => rfl, fun w s => ⟨fun _ hd => exec_uDecode_of_some hd s, fun hd => exec_uDecode_of_none hd s, ?_⟩⟩
  intro hascii
  obtain ⟨h, hd⟩ := (exists_decodeWindow_eq_some_iff w).mpr hascii
  exact ⟨h, exec_uDecode_of_some hd s⟩

end Sys2Proof.Proofs

/-! SUPPORT. The checksum as a sum of 25 bytes: what it is as a number, what setting a byte of the image does to it, and
the test as a relation between the sum and the stored byte. -/

namespace Sys2Proof.Machine

open Sys2Proof.Claims

/-- R100. The checksum is the sum of `IMG[0x134..0x14C]` in the bytes' own arithmetic. -/
theorem ckSum_eq_sum (img : Image) (hck : 0x14C < img.length) : ckSum img hck = ((img.drop 0x134).take 25).sum := by
  rw [ckSum, memRead_toList, List.sum_eq_foldl]

/-- R103. Reducing after every addition is reducing once at the end. -/
theorem toNat_sum_bytes (bs : List Byte) : bs.sum.toNat = (bs.map BitVec.toNat).sum % 256 := by
  induction bs with
  | nil => rfl
  | cons b bs ih => rw [List.sum_cons, List.map_cons, List.sum_cons, BitVec.toNat_add, ih, Nat.add_mod_mod]

/-- R103. The sum of `n` bytes as numbers is at most 255 times `n`. -/
theorem sum_map_toNat_le (bs : List Byte) : (bs.map BitVec.toNat).sum ≤ bs.length * 255 := by
  have hbound : ∀ x ∈ bs.map BitVec.toNat, x ≤ 255 := by
    simp only [List.forall_mem_map]
    exact fun b _ => Nat.le_of_lt_succ b.isLt
  simpa using List.sum_le_card_nsmul _ 255 hbound

/-- R100, R103. The checksum as a number. -/
theorem ckSum_toNat (img : Image) (hck : 0x14C < img.length) : (ckSum img hck).toNat = rawSum img % 256 := by
  rw [ckSum_eq_sum, toNat_sum_bytes, rawSum]

/-- R100. Setting a byte before offset 0x134 or after 0x14C does not change the checksum. -/
theorem ckSum_set_outside (img : Image) {a : Nat} (b : Byte) (hck : 0x14C < img.length)
    (hck' : 0x14C < (img.set a b).length) (ha : a < 0x134 ∨ 0x14C < a) : ckSum (img.set a b) hck' = ckSum img hck := by
  have hbytes : ((img.set a b).drop 0x134).take 25 = (img.drop 0x134).take 25 := by
    obtain hbefore | hafter := ha
    · rw [List.drop_set_of_lt hbefore]
    · rw [List.drop_set, if_neg (by omega), List.take_set_of_le (by omega)]
  rw [ckSum_eq_sum, ckSum_eq_sum, hbytes]

/-- R100. Setting a summed byte moves the checksum by the difference of the two bytes. -/
theorem ckSum_set_inside (img : Image) {a : Nat} (b : Byte) (hck : 0x14C < img.length)
    (hck' : 0x14C < (img.set a b).length) (hfirst : 0x134 ≤ a) (hlast : a ≤ 0x14C) :
    ckSum (img.set a b) hck' = ckSum img hck + (-img[a] + b) := by
  obtain ⟨k, rfl⟩ := Nat.exists_eq_add_of_le hfirst
  have hk : k < ((img.drop 0x134).take 25).length := by
    rw [List.length_take, List.length_drop]
    omega
  rw [ckSum_eq_sum, ckSum_eq_sum, List.drop_set, if_neg (by omega), Nat.add_sub_cancel_left, List.take_set,
    List.sum_set', dif_pos hk, List.getElem_take, List.getElem_drop]

/-- R104. Changing a summed byte changes the checksum. -/
theorem ckSum_set_ne (img : Image) {a : Nat} {b : Byte} (hck : 0x14C < img.length)
    (hck' : 0x14C < (img.set a b).length) (hfirst : 0x134 ≤ a) (hlast : a ≤ 0x14C) (hb : img[a]? ≠ some b) :
    ckSum (img.set a b) hck' ≠ ckSum img hck := by
  rw [List.getElem?_eq_getElem (Nat.lt_of_le_of_lt hlast hck), ne_eq, Option.some_inj] at hb
  rwa [ckSum_set_inside img b hck hck' hfirst hlast, ne_eq, add_eq_left, neg_add_eq_zero]

/-- R101. The test in terms of the whole sum. -/
theorem verify_eq_decide_rawSum (img : Image) (stored : Byte) (hck : 0x14C < img.length) :
    verify img stored hck = decide ((rawSum img % 256 + stored.toNat + 1) % 256 = 0) := by
  rw [verify, ckSum_toNat]

/-- R104. The test holds exactly when the sum and the stored byte add to 255: as numbers below 256 they add to 510 at
most. -/
theorem verify_iff_add_eq (img : Image) (stored : Byte) (hck : 0x14C < img.length) :
    verify img stored hck = true ↔ (ckSum img hck).toNat + stored.toNat = 255 := by
  have hsum := (ckSum img hck).isLt
  have hstored := stored.isLt
  rw [verify, decide_eq_true_iff]
  omega

/-- R104. The test holds exactly when the stored byte is the complement of the sum. -/
theorem verify_iff_eq_not (img : Image) (stored : Byte) (hck : 0x14C < img.length) :
    verify img stored hck = true ↔ stored = ~~~ ckSum img hck := by
  rw [verify_iff_add_eq, ← BitVec.toNat_inj, BitVec.toNat_not]
  have hsum := (ckSum img hck).isLt
  omega

/-- R102. `U.VERIFY` of an image that holds offset 0x14C. -/
theorem exec_uVerify_of_lt {img : Image} (hck : 0x14C < img.length) (arg : Byte) (s : State) :
    exec (.uVerify img arg) s = .next (s.respond (.done (.bit (verify img arg hck)))) := by
  simp only [exec, execUVerify, dif_pos hck]

/-- R102. `U.VERIFY` of an image that does not hold offset 0x14C. -/
theorem exec_uVerify_of_not_lt {img : Image} (hck : ¬ 0x14C < img.length) (arg : Byte) (s : State) :
    exec (.uVerify img arg) s = .next (s.respond .refused) := by
  simp only [exec, execUVerify, dif_neg hck]

end Sys2Proof.Machine

/-! The statements on the checksum engine (`41_checksum.md`). -/

namespace Sys2Proof.Proofs

open Sys2Proof.Machine Sys2Proof.Claims

/-- Settles O17: the running sum is the sum of the 25 bytes, which does not depend on their order. -/
theorem checksumIsSumModulo256 : Obligations.ChecksumIsSumModulo256 := by
  intro img hck
  refine ⟨ckSum_toNat img hck, ?_, fun l hperm => ?_⟩
  · calc rawSum img ≤ ((img.drop 0x134).take 25).length * 255 := sum_map_toNat_le _
      _ ≤ 25 * 255 := Nat.mul_le_mul_right _ (List.length_take_le _ _)
  · rw [ckSum_eq_sum, ← List.sum_eq_foldl, hperm.sum_eq]

/-- Settles O18. -/
theorem checksumIgnoresOtherBytes : Obligations.ChecksumIgnoresOtherBytes :=
  fun img _ b hck hck' ha => ckSum_set_outside img b hck hck' ha

/-- Settles O20: the one byte that passes is the complement, a changed byte changes the sum it
complements, and 0x00 and 0x00 changed to 0x01 and 0xFF cancel. -/
theorem verifyIsComplementOfSum : Obligations.VerifyIsComplementOfSum := by
  refine ⟨fun img stored hck => ⟨verify_iff_eq_not img stored hck, ?_, verify_iff_add_eq img stored hck⟩,
    fun img hck => ?_, fun img stored hck a b hck' hfirst hlast hb hpass => ?_, ?_⟩
  · have hsum := (ckSum img hck).isLt
    rw [verify_iff_add_eq]
    omega
  · exact ⟨~~~ ckSum img hck, (verify_iff_eq_not _ _ _).mpr rfl, fun _ => (verify_iff_eq_not _ _ _).mp⟩
  · rw [← Bool.not_eq_true]
    intro hpass'
    rw [verify_iff_eq_not] at hpass hpass'
    exact ckSum_set_ne img hck hck' hfirst hlast hb (BitVec.not_inj.mp (hpass'.symm.trans hpass))
  · refine ⟨List.replicate 0x14D 0, 0xFF, by decide +kernel, 0x134, 0x135, 0x01, 0xFF, by decide +kernel, ?_⟩
    decide +kernel

/-- Settles O21, by whether the image holds offset 0x14C. -/
theorem uVerifyAnswersTest : Obligations.UVerifyAnswersTest := by
  refine ⟨fun _ => rfl, fun img arg s => ⟨fun hlen => ?_, fun hlen => exec_uVerify_of_not_lt (by omega) arg s⟩⟩
  rw [exec_uVerify_of_lt hlen, verify_eq_decide_rawSum]
  rfl

end Sys2Proof.Proofs

/-! SUPPORT. What the lookups of unit LUT answer, case by case (R110 to R116), and the three unit-access commands in
terms of them. -/

namespace Sys2Proof.Machine

/-- R111. A code of the type table gives its entry. -/
theorem typeNameOf_of_lt (cfg : Config) {code : Byte} (hc : code.toNat < typeTableLen) :
    typeNameOf cfg code = cfg.typeRom[code.toNat] :=
  dif_pos hc

/-- R111. A code past the type table gives the sentinel. -/
theorem typeNameOf_of_le (cfg : Config) {code : Byte} (hc : typeTableLen ≤ code.toNat) :
    typeNameOf cfg code = unknownName :=
  dif_neg hc.not_gt

/-- R110. No entry of the type table is the sentinel. -/
theorem typeRom_getElem_ne_unknownName (cfg : Config) {i : Nat} (hi : i < typeTableLen) :
    cfg.typeRom[i] ≠ unknownName := by
  have hentry : cfg.typeRom[i] ∈ cfg.typeRom.toList := Vector.mem_toList_iff.mpr (Vector.getElem_mem hi)
  exact bne_iff_ne.mp (List.all_eq_true.mp cfg.typeRom_named _ hentry)

/-- R113. The lookup finds exactly the listed entries: as the codes rise, none before an entry has its code. -/
theorem licEntry_eq_some_iff (cfg : Config) (code : Byte) (name : DisplayName) :
    licEntry cfg code = some name ↔ (code, name) ∈ cfg.licRom := by
  rw [licEntry, List.lookup_eq_some_iff]
  constructor
  · rintro ⟨before, after, hsplit, -⟩
    simp [hsplit]
  · intro hmem
    obtain ⟨before, after, hsplit⟩ := List.append_of_mem hmem
    have hrising := cfg.licRom_rising
    rw [hsplit, List.pairwise_append] at hrising
    obtain ⟨-, -, hbefore⟩ := hrising
    refine ⟨before, after, hsplit, fun entry hentry => bne_iff_ne.mpr fun hcode => ?_⟩
    exact (hbefore entry hentry _ List.mem_cons_self).ne' (congrArg BitVec.toNat hcode)

/-- R113. A code that is not listed has no entry. -/
theorem licEntry_eq_none_iff (cfg : Config) (code : Byte) :
    licEntry cfg code = none ↔ ∀ name, (code, name) ∉ cfg.licRom := by
  simp only [Option.eq_none_iff_forall_ne_some, ne_eq, licEntry_eq_some_iff]

/-- R114. `PARITY` answers the sentinel from 0x22 on, whatever the licensee table holds. -/
theorem licNameOf_of_parity {cfg : Config} (hmode : cfg.licBoundMode = .parity) {code : Byte}
    (hc : typeTableLen ≤ code.toNat) : licNameOf cfg code = unknownName :=
  if_pos ⟨hmode, hc⟩

/-- R114. Where the bound test does not apply, the answer is that of the licensee table. -/
theorem licNameOf_of_unbounded {cfg : Config} {code : Byte}
    (h : cfg.licBoundMode = .fixed ∨ code.toNat < typeTableLen) :
    licNameOf cfg code = (licEntry cfg code).getD unknownName := by
  refine if_neg ?_
  rintro ⟨hparity, hc⟩
  obtain hfixed | hlt := h
  · exact absurd (hparity.symm.trans hfixed) (by decide)
  · exact hc.not_gt hlt

/-- R114. Where the bound test does not apply, a listed code gives its entry. -/
theorem licNameOf_of_mem {cfg : Config} {code : Byte} {name : DisplayName}
    (h : cfg.licBoundMode = .fixed ∨ code.toNat < typeTableLen) (hmem : (code, name) ∈ cfg.licRom) :
    licNameOf cfg code = name := by
  rw [licNameOf_of_unbounded h, (licEntry_eq_some_iff cfg code name).mpr hmem, Option.getD_some]

/-- R114. A code that is not listed gives the sentinel, with or without the bound test. -/
theorem licNameOf_of_forall_notMem {cfg : Config} {code : Byte} (hmem : ∀ name, (code, name) ∉ cfg.licRom) :
    licNameOf cfg code = unknownName := by
  rw [licNameOf, (licEntry_eq_none_iff cfg code).mpr hmem, Option.getD_none, ite_self]

/-- R116. The ROM size as a power of two: 32 is the fifth. -/
theorem romKbOf_eq_two_pow {code : Byte} {n : Nat} (hn : code.toNat + 5 = n) : romKbOf code = 2 ^ n := by
  rw [romKbOf, ← hn, Nat.pow_add, Nat.mul_comm]

/-- R112. `U.TYPENAME` answers the name its code looks up to, and does no more. -/
theorem exec_uTypename_of_eq {arg : Byte} {s : State} {name : DisplayName} (h : typeNameOf s.cfg arg = name) :
    exec (.uTypename arg) s = .next { s with out := s.out ++ [.done (.name name)] } := by
  rw [← h]
  rfl

/-- R115. `U.LICNAME` answers the name its code looks up to, and does no more. -/
theorem exec_uLicname_of_eq {arg : Byte} {s : State} {name : DisplayName} (h : licNameOf s.cfg arg = name) :
    exec (.uLicname arg) s = .next { s with out := s.out ++ [.done (.name name)] } := by
  rw [← h]
  rfl

/-- R117. `U.ROMKB` answers the size its code stands for, and does no more. -/
theorem exec_uRomkb_of_eq {arg : Byte} {s : State} {kb : Nat} (h : romKbOf arg = kb) :
    exec (.uRomkb arg) s = .next { s with out := s.out ++ [.done (.nat kb)] } := by
  rw [← h]
  rfl

end Sys2Proof.Machine

/-! The statements on the lookup ROMs (`42_lookup.md`). -/

namespace Sys2Proof.Proofs

open Sys2Proof.Machine

/-- Settles O22, by whether the code is one of the type table. -/
theorem uTypenameAnswersTableEntry : Obligations.UTypenameAnswersTableEntry := by
  refine ⟨fun _ => rfl, fun arg s => ⟨fun hc => ?_, ?_, fun hc => ?_⟩⟩
  · exact ⟨exec_uTypename_of_eq (typeNameOf_of_lt s.cfg hc), typeRom_getElem_ne_unknownName s.cfg hc⟩
  · rintro rfl
    exact exec_uTypename_of_eq ((typeNameOf_of_lt s.cfg (by decide)).trans s.cfg.typeRom_first)
  · exact exec_uTypename_of_eq (typeNameOf_of_le s.cfg hc)

/-- Settles O23, by whether the bound test applies and whether the code is listed. -/
theorem uLicnameAnswersByMode : Obligations.ULicnameAnswersByMode :=
  ⟨fun _ => rfl, fun _ _ => ⟨fun hmode hc => exec_uLicname_of_eq (licNameOf_of_parity hmode hc),
    fun _ h hmem => exec_uLicname_of_eq (licNameOf_of_mem h hmem),
    fun hmem => exec_uLicname_of_eq (licNameOf_of_forall_notMem hmem)⟩⟩

/-- Settles O24: below 0x22 neither mode tests the bound, and without an entry both give the sentinel. -/
theorem licenseeModesDifferOnlyFrom0x22 : Obligations.LicenseeModesDifferOnlyFrom0x22 := by
  refine fun cfg code => ⟨?_, fun name hc hmem => ⟨licNameOf_of_parity rfl hc, licNameOf_of_mem (.inl rfl) hmem⟩⟩
  rintro (hlt | hmem)
  · rw [licNameOf_of_unbounded (.inr hlt), licNameOf_of_unbounded (.inr hlt)]
    rfl
  · have hsentinel (mode : LicBoundMode) : licNameOf { cfg with licBoundMode := mode } code = unknownName :=
      licNameOf_of_forall_notMem hmem
    exact (hsentinel .parity).trans (hsentinel .fixed).symm

/-- Settles O25: the size is a natural number, 2 to the 260th for the largest code. -/
theorem uRomkbAnswersShift : Obligations.URomkbAnswersShift :=
  ⟨fun _ => rfl, fun _ _ => exec_uRomkb_of_eq rfl, fun _ => exec_uRomkb_of_eq (romKbOf_eq_two_pow (by decide))⟩

end Sys2Proof.Proofs

/-! SUPPORT. LOAD from `EMPTY`: which way it goes is a matter of its operands alone, a sound `EMPTY` state is fixed but
for `REPORT`, and the stored checksum byte of a decoded image (R121, R134). -/

namespace Sys2Proof.Machine

/-- R121, R134, R178. The operands alone decide how a LOAD from `EMPTY` ends: one failure from every such state, or the
commit of one header record from every such state. -/
theorem execLoad_of_empty (path : Path) (src : Src) (img : Image) :
    (∃ f, ∀ s : State, s.cart.st = .empty → execLoad path src img s = .next (s.raise f)) ∨
    (∃ hlen hdr, ∀ s : State, s.cart.st = .empty → execLoad path src img s =
      .next ((s.setCart (s.cart.loadDecoded s.cfg path img hlen hdr)).respond (.done .nothing))) := by
  cases src with
  | notFound => exact .inl ⟨.notFound, fun s hst => by simp only [execLoad, if_pos hst]⟩
  | ioFault c => exact .inl ⟨.ioError c, fun s hst => by simp only [execLoad, if_pos hst]⟩
  | ok =>
    by_cases hlen : hdrEnd ≤ img.length
    · cases hd : decodeWindow (imageWindow img hlen) with
      | none => exact .inl ⟨.formatError, fun _ hst => execLoad_of_decode_none path hst hlen hd⟩
      | some hdr => exact .inr ⟨hlen, hdr, fun _ hst => execLoad_of_decode_some path hst hlen hd⟩
    · exact .inl ⟨.truncatedImage, fun s hst => by simp only [execLoad, if_pos hst, dif_neg hlen]⟩

/-- R38, R120. A sound `EMPTY` state is already what CLEAR makes of it. -/
theorem Cartridge.EmptyClause.clear_eq {c : Cartridge} (h : c.EmptyClause) : c.clear = c := by
  obtain ⟨st, err, cause, fname, raw, hdr, typeName, licName, romKb, ckOk, report⟩ := c
  obtain ⟨⟨⟩, ⟨⟩, ⟨⟩, ⟨⟩, ⟨⟩, hhv, ⟨⟩, ⟨⟩, ⟨⟩, ⟨⟩⟩ := h
  obtain rfl : hdr = none := Option.not_isSome_iff_eq_none.mp (Bool.eq_false_iff.mp hhv)
  rfl

/-- R38. Two sound `EMPTY` states differ in nothing but `REPORT`. -/
theorem Cartridge.EmptyClause.eq_but_report {c c' : Cartridge} (h : c.EmptyClause) (h' : c'.EmptyClause) :
    { c with report := [] } = { c' with report := [] } := by
  rw [← h.clear_eq, ← h'.clear_eq]
  rfl

/-- R28, R62. `H[HCK]` of a decoded image is its byte at 0x14D. -/
theorem hck_of_decodeWindow_imageWindow {img : Image} {hlen : hdrEnd ≤ img.length} {hdr : HeaderRecord}
    (hd : decodeWindow (imageWindow img hlen) = some hdr) : img[0x14D]? = some hdr.hck := by
  obtain ⟨_, rfl⟩ := (decodeWindow_eq_some_iff _ _).mp hd
  rw [windowRecord, imageWindow_getElem img hlen 0x4D (by decide)]
  exact List.getElem?_eq_getElem _

end Sys2Proof.Machine

/-! The statements on the loader (`43_loader.md`). -/

namespace Sys2Proof.Proofs

open Sys2Proof.Machine Sys2Proof.Claims

/-- Settles O27: an ASCII title is a header window that decodes, which LOAD commits. -/
theorem loadCommitsImage : Obligations.LoadCommitsImage := by
  intro path img s hlen _ hst htitle
  obtain ⟨hdr, hd⟩ := Option.isSome_iff_exists.mp ((decodeWindow_imageWindow_isSome_iff img hlen).mpr htitle)
  exact ⟨hdr, hd, execLoad_of_decode_some path hst hlen hd⟩

/-- Settles O28: the commit stores the test of `H[HCK]`, which is the image's byte at 0x14D, and does not look at it. -/
theorem checksumMismatchStillLoads : Obligations.ChecksumMismatchStillLoads := by
  intro path img s stored hst hlen htitle hstored
  have hck : 0x14C < img.length := Nat.lt_of_lt_of_le (by decide) hlen
  obtain ⟨hdr, hd, hload⟩ := loadCommitsImage path img s hlen hck hst htitle
  have hhck : hdr.hck = stored := Option.some_inj.mp ((hck_of_decodeWindow_imageWindow hd).symm.trans hstored)
  refine ⟨_, hload, rfl, rfl, ?_⟩
  rw [verify_eq_decide_rawSum, hhck]

/-- Settles O32: both LOADs raise the same failure or commit the same record, on architectural states that differ in
`REPORT` only. -/
theorem loadDependsOnlyOnOperands : Obligations.LoadDependsOnlyOnOperands := by
  intro path src img s s' t t' hempty hempty' hcfg h h'
  have hcart := hempty.eq_but_report hempty'
  obtain ⟨hst, _⟩ := hempty
  obtain ⟨hst', _⟩ := hempty'
  obtain ⟨f, hraise⟩ | ⟨hlen, hdr, hcommit⟩ := execLoad_of_empty path src img
  · cases (hraise s hst).symm.trans h
    cases (hraise s' hst').symm.trans h'
    exact ⟨congrArg (Cartridge.fail f) hcart, [], (List.append_nil _).symm, (List.append_nil _).symm⟩
  · cases (hcommit s hst).symm.trans h
    cases (hcommit s' hst').symm.trans h'
    rw [hcfg]
    exact ⟨congrArg (fun c => { c.loadDecoded s'.cfg path img hlen hdr with report := [] }) hcart, _, rfl, rfl⟩

/-- Settles O26: a sound `EMPTY` state is its own CLEAR. -/
theorem clearEmptiesAllButReport : Obligations.ClearEmptiesAllButReport := by
  refine ⟨fun _ => rfl, fun _ => rfl, fun s hempty => ?_⟩
  have hclear : exec .clear s = .next ((s.setCart s.cart.clear).respond (.done .nothing)) := rfl
  rw [hclear, hempty.clear_eq]
  rfl

/-- Settles O30. -/
theorem loadOutsideEmptyIsRefused : Obligations.LoadOutsideEmptyIsRefused :=
  fun path src img _ hst => execLoad_of_not_empty path src img hst

end Sys2Proof.Proofs

/-! SUPPORT. What the accessors read: the four fields of `STATUS` (R34), the reads of one register case by case (R136 to
R159), and in a sound state (R38) the registers as functions of the image. -/

namespace Sys2Proof.Machine

open Sys2Proof.Claims

/-- R34. The fields of a byte laid out as `STATUS` is. -/
theorem statusLayout_fields (z : BitVec 2) (ck : BitVec 1) (err : BitVec 3) (st : BitVec 2) :
    (z ++ ck ++ err ++ st).extractLsb' 0 2 = st ∧ (z ++ ck ++ err ++ st).extractLsb' 2 3 = err ∧
    (z ++ ck ++ err ++ st).extractLsb' 5 1 = ck ∧ (z ++ ck ++ err ++ st).extractLsb' 6 2 = z := by
  refine ⟨BitVec.extractLsb'_append_eq_right, ?_, ?_, ?_⟩
  · rw [BitVec.extractLsb'_append_eq_of_le (by decide)]
    exact BitVec.extractLsb'_append_eq_right
  · rw [BitVec.extractLsb'_append_eq_of_le (by decide), BitVec.extractLsb'_append_eq_of_le (by decide)]
    exact BitVec.extractLsb'_append_eq_right
  · rw [BitVec.extractLsb'_append_eq_of_le (by decide), BitVec.extractLsb'_append_eq_of_le (by decide)]
    exact BitVec.extractLsb'_append_eq_left

theorem Cartridge.statusCkok_toNat_eq_one_iff (c : Cartridge) :
    c.statusCkok.toNat = 1 ↔ c.st = .loaded ∧ c.ckOk = some true := by
  unfold Cartridge.statusCkok
  split <;> simp [*]

/-- R138. `RD.CAUSE` while `ERR = IO_ERROR`. -/
theorem exec_rdCause_of_ioError {s : State} {c : Cause} (herr : s.cart.err = .failed .ioError)
    (hcause : s.cart.cause = some c) : exec .rdCause s = .next (s.respond (.done (.cause c))) := by
  simp only [exec, execRdCause, if_pos herr, hcause, Option.map_some, answer_some]

/-- R138. `RD.CAUSE` with any other `ERR`. -/
theorem exec_rdCause_of_ne {s : State} (herr : s.cart.err ≠ .failed .ioError) :
    exec .rdCause s = .next (s.respond .absent) := by
  simp only [exec, execRdCause, if_neg herr, Option.map_none, answer_none]

/-- R13, R38. In a sound state with `ERR = IO_ERROR` there is a cause: only the clause for `FAILED` allows that `ERR`. -/
theorem State.Inv.exists_cause {s : State} (h : s.Inv) (herr : s.cart.err = .failed .ioError) :
    ∃ c, s.cart.cause = some c := by
  obtain ⟨_, hnone, _⟩ | ⟨_, hnone, _⟩ | ⟨_, ⟨k, hk, hcause⟩, _⟩ := h
  · cases hnone.symm.trans herr
  · cases hnone.symm.trans herr
  · cases hk.symm.trans herr
    exact Option.isSome_iff_exists.mp (hcause.mpr rfl)

/-- R122. LOAD from `EMPTY` with an I/O fault fails with its cause. -/
theorem execLoad_of_ioFault (path : Path) (c : Cause) (img : Image) {s : State} (hst : s.cart.st = .empty) :
    execLoad path (.ioFault c) img s = .next (s.raise (.ioError c)) := by
  simp only [execLoad, if_pos hst]

/-- R141. `RD.IMGB` with an image loaded, by whether the address is inside it. -/
theorem execRdImgb_loaded {s : State} {raw : Image} (hst : s.cart.st = .loaded) (hraw : s.cart.raw = some raw)
    (a : Nat) : execRdImgb a s = .next (s.respond (if ha : a < raw.length then .done (.byte raw[a]) else .refused)) := by
  unfold execRdImgb
  rw [Cartridge.whenLoaded_loaded hst, hraw]
  by_cases ha : a < raw.length <;> simp [ha]

/-- R136, R141. `RD.IMGB` with no image loaded. -/
theorem execRdImgb_absent {s : State} (hst : s.cart.st ≠ .loaded) (a : Nat) :
    execRdImgb a s = .next (s.respond .absent) := by
  simp only [execRdImgb, Cartridge.whenLoaded_not hst]

/-- R139, R140, R141. The file name and raw image accessors with an image loaded. -/
theorem exec_imageReads_loaded {s : State} {path : Path} {raw : Image} (hst : s.cart.st = .loaded)
    (hfname : s.cart.fname = some path) (hraw : s.cart.raw = some raw) :
    exec .rdFname s = .next (s.respond (.done (.path path))) ∧
    exec .rdImglen s = .next (s.respond (.done (.nat raw.length))) ∧
    (∀ a (ha : a < raw.length), exec (.rdImgb a) s = .next (s.respond (.done (.byte raw[a])))) ∧
    (∀ a, raw.length ≤ a → exec (.rdImgb a) s = .next (s.respond .refused)) :=
  ⟨congrArg _ (State.readLoaded_loaded _ _ hst hfname), congrArg _ (State.readLoaded_loaded _ _ hst hraw),
    fun a ha => (execRdImgb_loaded hst hraw a).trans (by rw [dif_pos ha]),
    fun a ha => (execRdImgb_loaded hst hraw a).trans (by rw [dif_neg ha.not_gt])⟩

/-- R127. A LOAD that takes an `EMPTY` block to `LOADED` took an image with a whole header, and stored it and its path. -/
theorem exec_load_ends_loaded {path : Path} {src : Src} {img : Image} {s t : State}
    (h : exec (.load path src img) s = .next t) (hs : s.cart.st = .empty) (ht : t.cart.st = .loaded) :
    0x150 ≤ img.length ∧ t.cart.fname = some path ∧ t.cart.raw = some img := by
  obtain hc | ⟨⟨⟩⟩ | ⟨f, _, _, hc⟩ | ⟨_, _, hlen, hdr, _, ⟨⟩, _, hc⟩ := exec_cart_cases h
  · rw [hc, hs] at ht
    cases ht
  · rw [hc] at ht
    cases ht
  · rw [hc]
    exact ⟨hlen, rfl, rfl⟩

/-- R136. A command that reads a header register with `readHeader` reads it as `ReadsHeaderAs` says. -/
theorem readsHeaderAs_of_readHeader {α : Type} {cmd : Byte} {i : Instr} (f : HeaderRecord → α) (val : α → Value)
    (hdec : ∀ p, decode ⟨cmd, p⟩ = .ok i := by exact fun _ => rfl)
    (hexec : ∀ s, exec i s = .next (s.readHeader f val) := by exact fun _ => rfl) :
    ReadsHeaderAs cmd i fun h => val (f h) :=
  ⟨hdec, fun s _ hst hh => (hexec s).trans (congrArg _ (State.readHeader_loaded f val hst hh)),
    fun s hst => (hexec s).trans (congrArg _ (State.readHeader_absent f val hst))⟩

/-- R38. A sound state that holds an image meets the clause for `LOADED`: in the other two `RAW` is absent. -/
theorem State.Inv.loadedClause {s : State} {img : Image} (h : s.Inv) (hraw : s.cart.raw = some img) :
    s.cart.LoadedClause s.cfg := by
  obtain ⟨_, _, _, _, hnone, _⟩ | hloaded | ⟨_, _, _, hnone, _⟩ := h
  · cases hnone.symm.trans hraw
  · exact hloaded
  · cases hnone.symm.trans hraw

/-- R38. In a sound state that holds an image, an image is loaded and the header registers are the record of its header
window. -/
theorem State.Inv.hdr_eq_windowRecord {s : State} {img : Image} (h : s.Inv) (hraw : s.cart.raw = some img) :
    ∃ hlen, s.cart.st = .loaded ∧ s.cart.hdr = some (windowRecord (imageWindow img hlen)) := by
  obtain ⟨hst, _, _, _, _, img', hdr, hlen, hraw', hhdr, hd, _⟩ := h.loadedClause hraw
  cases hraw'.symm.trans hraw
  obtain ⟨_, rfl⟩ := (decodeWindow_eq_some_iff _ _).mp hd
  exact ⟨hlen, hst, hhdr⟩

/-- R38. In a sound state that holds an image, a command that reads a header register with `readHeader` answers the
field of the record of the image's header window. -/
theorem exec_readHeader_of_image {α : Type} (i : Instr) (f : HeaderRecord → α) (val : α → Value) {s : State}
    {img : Image} (hinv : s.Inv) (hraw : s.cart.raw = some img)
    (hexec : ∀ s, exec i s = .next (s.readHeader f val) := by exact fun _ => rfl) :
    ∃ hlen, exec i s = .next (s.respond (.done (val (f (windowRecord (imageWindow img hlen)))))) := by
  obtain ⟨hlen, hst, hhdr⟩ := hinv.hdr_eq_windowRecord hraw
  exact ⟨hlen, (hexec s).trans (congrArg _ (State.readHeader_loaded f val hst hhdr))⟩

/-- R49. Byte `0x100 + r` of an image is byte `r` of its header window. -/
theorem getElem?_eq_imageWindow (img : Image) (hlen : hdrEnd ≤ img.length) (r : Nat) (hr : r < 0x50) :
    img[0x100 + r]? = some (imageWindow img hlen)[r] := by
  rw [imageWindow_getElem img hlen r hr]
  exact List.getElem?_eq_getElem _

/-- R49, R61. A slice of an image's header window is the image's bytes from `0x100` plus its offset on. -/
theorem windowSlice_imageWindow_toList (img : Image) (hlen : hdrEnd ≤ img.length) (off n : Nat) (h : off + n ≤ 0x50) :
    (windowSlice (imageWindow img hlen) off n h).toList = (img.drop (0x100 + off)).take n := by
  simp [imageWindow, hdrLen, List.drop_take, List.take_take, Nat.le_sub_of_add_le' h]

/-- R63, R145, R154. In a sound state the accessor of a 16-bit field answers the two image bytes of its map entry. -/
theorem exec_readHalf_of_image {i : Instr} (f : HeaderRecord → Half) (r : Nat) {s : State} {img : Image}
    (hinv : s.Inv) (hraw : s.cart.raw = some img) (hr : r + 1 < 0x50 := by decide)
    (hexec : ∀ s, exec i s = .next (s.readHeader f .half) := by exact fun _ => rfl)
    (hf : ∀ w, f (windowRecord w) = bigEndian w[r] w[r + 1] := by exact fun _ => rfl) :
    ∃ hi lo v, img[0x100 + r]? = some hi ∧ img[0x100 + r + 1]? = some lo ∧ v.toNat = hi.toNat * 256 + lo.toNat ∧
      exec i s = .next (s.respond (.done (.half v))) := by
  obtain ⟨hlen, hread⟩ := exec_readHeader_of_image i f .half hinv hraw hexec
  exact ⟨_, _, _, getElem?_eq_imageWindow img hlen r (by omega), getElem?_eq_imageWindow img hlen (r + 1) hr,
    (congrArg BitVec.toNat (hf _)).trans (bigEndian_toNat _ _), hread⟩

/-- R62, R146 to R153. In a sound state the accessor of a single-byte field answers the image byte of its map entry. -/
theorem exec_readByte_of_image {i : Instr} (f : HeaderRecord → Byte) (r : Nat) {s : State} {img : Image}
    (hinv : s.Inv) (hraw : s.cart.raw = some img) (hr : r < 0x50 := by decide)
    (hexec : ∀ s, exec i s = .next (s.readHeader f .byte) := by exact fun _ => rfl)
    (hf : ∀ w, f (windowRecord w) = w[r] := by exact fun _ => rfl) :
    ∃ b, img[0x100 + r]? = some b ∧ exec i s = .next (s.respond (.done (.byte b))) := by
  obtain ⟨hlen, hread⟩ := exec_readHeader_of_image i f .byte hinv hraw hexec
  exact ⟨_, (getElem?_eq_imageWindow img hlen r hr).trans (congrArg some (hf _).symm), hread⟩

/-- The derived registers hold the functions of the configuration, the image and the header registers that R30 to R33
name. -/
structure Cartridge.DerivedFrom (cfg : Config) (img : Image) (h : HeaderRecord) (c : Cartridge) : Prop where
  typeName : c.typeName = some (typeNameOf cfg h.ctype)
  licName : c.licName = some (licNameOf cfg h.oldlic)
  romKb : c.romKb = some (32 * 2 ^ h.romsz.toNat)
  ckOk : c.ckOk = some (decide ((rawSum img % 256 + h.hck.toNat + 1) % 256 = 0))

/-- R38. In a sound state with an image loaded the derived registers are functions of the image and its header. -/
theorem State.Inv.derivedFrom {s : State} {img : Image} {h : HeaderRecord} (hinv : s.Inv)
    (hraw : s.cart.raw = some img) (hhdr : s.cart.hdr = some h) : s.cart.DerivedFrom s.cfg img h := by
  obtain ⟨_, _, _, _, _, img', h', _, hraw', hhdr', _, _, htype, hlic, hkb, hck⟩ := hinv.loadedClause hraw
  cases hraw'.symm.trans hraw
  cases hhdr'.symm.trans hhdr
  exact ⟨htype, hlic, hkb, hck.trans (congrArg some (verify_eq_decide_rawSum _ _ _))⟩

/-- R136. A command that reads a derived register with `readLoaded` reads it as `ReadsDerivedAs` says. -/
theorem readsDerivedAs_of_readLoaded {α : Type} {cmd : Byte} {i : Instr} {reg : Cartridge → Option α}
    {f : Config → Image → HeaderRecord → α} (val : α → Value)
    (hreg : ∀ {cfg img h c}, Cartridge.DerivedFrom cfg img h c → reg c = some (f cfg img h))
    (hdec : ∀ p, decode ⟨cmd, p⟩ = .ok i := by exact fun _ => rfl)
    (hexec : ∀ s, exec i s = .next (s.readLoaded reg val) := by exact fun _ => rfl) :
    ReadsDerivedAs cmd i fun cfg img h => val (f cfg img h) :=
  ⟨hdec, fun s _ _ hinv hst hraw hhdr =>
      (hexec s).trans (congrArg _ (State.readLoaded_loaded reg val hst (hreg (hinv.derivedFrom hraw hhdr)))),
    fun s hst => (hexec s).trans (congrArg _ (State.readLoaded_absent reg val hst))⟩

/-- R130, R159. The summary rebuilt from registers that are functions of the image and its header. -/
theorem Cartridge.DerivedFrom.summary_eq {cfg : Config} {img : Image} {h : HeaderRecord} {c : Cartridge}
    (hc : c.DerivedFrom cfg img h) (hhdr : c.hdr = some h) :
    c.summary = some (summaryOf h (typeNameOf cfg h.ctype) (licNameOf cfg h.oldlic) (32 * 2 ^ h.romsz.toNat)
      (decide ((rawSum img % 256 + h.hck.toNat + 1) % 256 = 0))) := by
  simp only [Cartridge.summary, hhdr, hc.typeName, hc.licName, hc.romKb, hc.ckOk]

end Sys2Proof.Machine

/-! The statements on the accessors (`44_access.md`). -/

namespace Sys2Proof.Proofs

open Sys2Proof.Machine Sys2Proof.Claims

/-- Settles O45: of the ways a step can write the architectural state only the commit of a LOAD ends `LOADED`, and it
appends the summary its registers give back. -/
theorem stepKeepsReportTie : Obligations.StepKeepsReportTie := by
  intro s t htie h
  obtain ⟨_, hcart | ⟨_, _, _, _, _, hw⟩⟩ := step_cart_cases h
  · rwa [State.ReportInv, hcart]
  · intro hst
    cases hw with
    | clear _ hc =>
      rw [hc] at hst
      cases hst
    | fail f _ _ hc =>
      rw [hc] at hst
      cases hst
    | commit path img hlen hdr _ _ _ hc =>
      rw [hc]
      exact ⟨_, Cartridge.commit_summary _ _ _ _ _ _ _ _, List.getLast?_concat⟩

/-- Settles O34, field by field of `STATUS`. -/
theorem statusIsPacked : Obligations.StatusIsPacked := by
  refine ⟨fun _ => rfl, fun s => ⟨s.cart.status, rfl, ?_⟩⟩
  obtain ⟨hst, herr, hck, hzero⟩ := statusLayout_fields 0 s.cart.statusCkok s.cart.err.code s.cart.st.code
  rw [Cartridge.status, hst, herr, hck, hzero]
  refine ⟨?_, ?_, s.cart.statusCkok_toNat_eq_one_iff, rfl⟩
  · cases s.cart.st <;> rfl
  · obtain _ | k := s.cart.err
    · rfl
    · cases k <;> rfl

/-- Settles O36, by whether `ERR = IO_ERROR`; the failure path of a LOAD leaves the host's cause there. -/
theorem causeIsReadAfterIoError : Obligations.CauseIsReadAfterIoError := by
  refine ⟨fun _ => rfl, fun _ _ => exec_rdCause_of_ioError, fun s hinv herr => ?_, fun _ => exec_rdCause_of_ne,
    fun path c img s t hst h => ?_⟩
  · obtain ⟨c, hcause⟩ := hinv.exists_cause herr
    exact ⟨c, exec_rdCause_of_ioError herr hcause⟩
  · cases (execLoad_of_ioFault path c img hst).symm.trans h
    exact exec_rdCause_of_ioError rfl rfl

/-- Settles O37: a LOAD that ends `LOADED` has stored its path and image, which the accessors read. -/
theorem loadedImageReadsBack : Obligations.LoadedImageReadsBack := by
  refine ⟨fun _ => ⟨rfl, rfl, rfl⟩, fun _ _ _ => exec_imageReads_loaded, fun s a hst => ?_,
    fun path src img s t h hs ht => ?_⟩
  · exact ⟨congrArg _ (State.readLoaded_absent _ _ hst), congrArg _ (State.readLoaded_absent _ _ hst),
      execRdImgb_absent hst a⟩
  · obtain ⟨hlen, hfname, hraw⟩ := exec_load_ends_loaded h hs ht
    exact ⟨hlen, exec_imageReads_loaded ht hfname hraw⟩

/-- Settles O38: the three registers are slices of the header window, the title one without its trailing 0x00 bytes. -/
theorem byteArrayAccessors : Obligations.ByteArrayAccessors := by
  refine ⟨readsHeaderAs_of_readHeader HeaderRecord.entry (fun v => .bytes v.toList),
    readsHeaderAs_of_readHeader HeaderRecord.logo (fun v => .bytes v.toList),
    readsHeaderAs_of_readHeader HeaderRecord.title .bytes, fun s img hinv hraw => ?_⟩
  obtain ⟨_, hentry⟩ := exec_readHeader_of_image .rdEntry HeaderRecord.entry (fun v => .bytes v.toList) hinv hraw
  obtain ⟨_, hlogo⟩ := exec_readHeader_of_image .rdLogo HeaderRecord.logo (fun v => .bytes v.toList) hinv hraw
  obtain ⟨_, htitle⟩ := exec_readHeader_of_image .rdTitle HeaderRecord.title .bytes hinv hraw
  rw [windowRecord, windowSlice_imageWindow_toList] at hentry hlogo
  exact ⟨hentry, hlogo, _, _, htitle, (trimTitle_append_zeros _).trans (titleRegion_imageWindow img _),
    trimTitle_getLast?_ne_zero _⟩

/-- Settles O39. -/
theorem halfAccessors : Obligations.HalfAccessors := by
  refine ⟨readsHeaderAs_of_readHeader HeaderRecord.newlic .half,
    readsHeaderAs_of_readHeader HeaderRecord.gck .half, fun s img hinv hraw i a hmem => ?_⟩
  simp only [List.mem_cons, Prod.mk.injEq, List.not_mem_nil, or_false] at hmem
  obtain ⟨rfl, rfl⟩ | ⟨rfl, rfl⟩ := hmem
  · exact exec_readHalf_of_image HeaderRecord.newlic 0x44 hinv hraw
  · exact exec_readHalf_of_image HeaderRecord.gck 0x4E hinv hraw

/-- Settles O40, row by row of the header map. -/
theorem singleByteAccessors : Obligations.SingleByteAccessors := by
  refine ⟨⟨readsHeaderAs_of_readHeader HeaderRecord.sgb .byte,
    readsHeaderAs_of_readHeader HeaderRecord.ctype .byte,
    readsHeaderAs_of_readHeader HeaderRecord.romsz .byte,
    readsHeaderAs_of_readHeader HeaderRecord.ramsz .byte,
    readsHeaderAs_of_readHeader HeaderRecord.dest .byte,
    readsHeaderAs_of_readHeader HeaderRecord.oldlic .byte,
    readsHeaderAs_of_readHeader HeaderRecord.ver .byte,
    readsHeaderAs_of_readHeader HeaderRecord.hck .byte⟩, fun s img hinv hraw i a hmem => ?_⟩
  simp only [List.mem_cons, Prod.mk.injEq, List.not_mem_nil, or_false] at hmem
  obtain ⟨rfl, rfl⟩ | ⟨rfl, rfl⟩ | ⟨rfl, rfl⟩ | ⟨rfl, rfl⟩ | ⟨rfl, rfl⟩ | ⟨rfl, rfl⟩ | ⟨rfl, rfl⟩ | ⟨rfl, rfl⟩ := hmem
  · exact exec_readByte_of_image HeaderRecord.sgb 0x46 hinv hraw
  · exact exec_readByte_of_image HeaderRecord.ctype 0x47 hinv hraw
  · exact exec_readByte_of_image HeaderRecord.romsz 0x48 hinv hraw
  · exact exec_readByte_of_image HeaderRecord.ramsz 0x49 hinv hraw
  · exact exec_readByte_of_image HeaderRecord.dest 0x4A hinv hraw
  · exact exec_readByte_of_image HeaderRecord.oldlic 0x4B hinv hraw
  · exact exec_readByte_of_image HeaderRecord.ver 0x4C hinv hraw
  · exact exec_readByte_of_image HeaderRecord.hck 0x4D hinv hraw

/-- Settles O41: each reads a derived register, which the invariant ties to the header. -/
theorem derivedAccessors : Obligations.DerivedAccessors :=
  ⟨readsDerivedAs_of_readLoaded .name Cartridge.DerivedFrom.typeName,
    readsDerivedAs_of_readLoaded .name Cartridge.DerivedFrom.licName,
    readsDerivedAs_of_readLoaded .nat Cartridge.DerivedFrom.romKb,
    readsDerivedAs_of_readLoaded .bit Cartridge.DerivedFrom.ckOk⟩

/-- Settles O42: the invariant gives the ten fields of the rebuilt summary, the tie makes it the newest record. -/
theorem summaryIsRebuilt : Obligations.SummaryIsRebuilt := by
  refine ⟨fun _ => rfl, fun s img h hinv htie hst hraw hhdr => ?_,
    fun s hst => congrArg _ (State.readLoaded_absent _ _ hst)⟩
  obtain ⟨m, hm, hlast⟩ := htie hst
  refine ⟨m, congrArg _ (State.readLoaded_loaded _ _ hst hm), hlast, ?_⟩
  exact Option.some_inj.mp (hm.symm.trans ((hinv.derivedFrom hraw hhdr).summary_eq hhdr))

/-- Settles O46: every command but CLEAR and LOAD only gives its response. -/
theorem onlyClearAndLoadWriteState : Obligations.OnlyClearAndLoadWriteState := by
  intro i s t h
  obtain ⟨hcfg, hcmds, _⟩ := exec_frame h
  refine ⟨hcfg, hcmds, ?_⟩
  obtain ⟨r, hr⟩ | hwriter := exec_responds i s
  · cases hr.symm.trans h
    exact .inl rfl
  · exact .inr hwriter

end Sys2Proof.Proofs

/-! SUPPORT. The failures of LOAD from `EMPTY` that do not look at the header (R122, R123). -/

namespace Sys2Proof.Machine

/-- R122. LOAD from `EMPTY` of a file that is not there fails. -/
theorem execLoad_of_notFound (path : Path) (img : Image) {s : State} (hst : s.cart.st = .empty) :
    execLoad path .notFound img s = .next (s.raise .notFound) := by
  simp only [execLoad, if_pos hst]

/-- R123. LOAD from `EMPTY` of an image that ends before its header does fails. -/
theorem execLoad_of_short (path : Path) {img : Image} {s : State} (hst : s.cart.st = .empty)
    (hshort : img.length < hdrEnd) : execLoad path .ok img s = .next (s.raise .truncatedImage) := by
  simp only [execLoad, if_pos hst, dif_neg hshort.not_ge]

end Sys2Proof.Machine

/-! The statements on exceptions (`60_exceptions.md`). -/

namespace Sys2Proof.Proofs

open Sys2Proof.Machine Sys2Proof.Claims

/-- Settles O29, failure by failure in the order of R178; a title that is not ASCII is a header window that does not
decode. -/
theorem loadFailurePath : Obligations.LoadFailurePath := by
  intro path img s hst
  refine ⟨execLoad_of_notFound path img hst, fun c => execLoad_of_ioFault path c img hst, execLoad_of_short path hst,
    fun hlen htitle => ?_⟩
  have hd : decodeWindow (imageWindow img hlen) = none :=
    Option.not_isSome_iff_eq_none.mp (mt (decodeWindow_imageWindow_isSome_iff img hlen).mp htitle)
  exact execLoad_of_decode_none path hst hlen hd

/-- Settles O47: of the ways a step can write the architectural state, the two of a LOAD start from `EMPTY`. -/
theorem onlyClearLeavesTerminalState : Obligations.OnlyClearLeavesTerminalState := by
  intro s t h hst hne
  obtain ⟨_, hcart | ⟨r, rest, i, hcmds, hdec, hw⟩⟩ := step_cart_cases h
  · exact absurd hcart hne
  · cases hw with
    | clear hi hc =>
      subst hi
      exact ⟨r, rest, hcmds, hdec, by rw [hc]; rfl⟩
    | fail _ hempty => exact absurd hempty hst
    | commit _ _ _ _ hempty => exact absurd hempty hst

/-- Settles O8: it is the idle case of the step. -/
theorem idleStepKeepsAllState : Obligations.IdleStepKeepsAllState :=
  fun _ hcmds => step_of_no_request hcmds

end Sys2Proof.Proofs

/-! SUPPORT. The reads that answer `ABSENT` with no image loaded (R136), as commands. -/

namespace Sys2Proof.Machine

/-- R136. A command that reads a header register with `readHeader` answers `ABSENT` with no image loaded. -/
theorem exec_readHeader_absent {α : Type} {i : Instr} (f : HeaderRecord → α) (val : α → Value) {s : State}
    (hst : s.cart.st ≠ .loaded) (hexec : exec i s = .next (s.readHeader f val) := by rfl) :
    exec i s = .next (s.respond .absent) :=
  hexec.trans (congrArg _ (State.readHeader_absent f val hst))

/-- R136. A command that reads any other register with `readLoaded` answers `ABSENT` with no image loaded. -/
theorem exec_readLoaded_absent {α : Type} {i : Instr} (reg : Cartridge → Option α) (val : α → Value) {s : State}
    (hst : s.cart.st ≠ .loaded) (hexec : exec i s = .next (s.readLoaded reg val) := by rfl) :
    exec i s = .next (s.respond .absent) :=
  hexec.trans (congrArg _ (State.readLoaded_absent reg val hst))

end Sys2Proof.Machine

/-! The statements on reset (`70_reset_and_hazards.md`). -/

namespace Sys2Proof.Proofs

open Sys2Proof.Machine

/-- Settles O1: reset is the state CLEAR makes of any other but for `REPORT`, and with no request waiting the step is
idle. -/
theorem resetIsConstructedEmpty : Obligations.ResetIsConstructedEmpty :=
  ⟨⟨rfl, rfl, rfl, rfl, rfl, rfl, rfl, rfl, rfl, rfl, rfl, rfl⟩, fun _ => ⟨_, rfl, rfl⟩, step_of_no_request rfl⟩

/-- Settles O2, accessor by accessor: all but `RD.STATUS` and `RD.CAUSE` are absent because nothing is loaded,
`RD.CAUSE` because `ERR` is `NONE`. -/
theorem emptyAccessorsAnswerAbsent : Obligations.EmptyAccessorsAnswerAbsent := by
  rintro s ⟨hst, herr, _⟩
  have hnot : s.cart.st ≠ .loaded := by simp [hst]
  have hnoIo : s.cart.err ≠ .failed .ioError := by simp [herr]
  refine ⟨?_, fun addr i hmem => ?_⟩
  · rw [← Cartridge.status_empty hst herr]
    rfl
  · simp only [List.mem_cons, List.not_mem_nil, or_false] at hmem
    obtain rfl | rfl | rfl | rfl | rfl | rfl | rfl | rfl | rfl | rfl | rfl | rfl | rfl | rfl | rfl | rfl | rfl | rfl |
      rfl | rfl | rfl | rfl := hmem
    · exact exec_rdCause_of_ne hnoIo
    · exact exec_readLoaded_absent Cartridge.fname .path hnot
    · exact exec_readLoaded_absent Cartridge.raw (fun raw => .nat raw.length) hnot
    · exact execRdImgb_absent hnot addr
    · exact exec_readHeader_absent HeaderRecord.entry (fun v => .bytes v.toList) hnot
    · exact exec_readHeader_absent HeaderRecord.logo (fun v => .bytes v.toList) hnot
    · exact exec_readHeader_absent HeaderRecord.title .bytes hnot
    · exact exec_readHeader_absent HeaderRecord.newlic .half hnot
    · exact exec_readHeader_absent HeaderRecord.sgb .byte hnot
    · exact exec_readHeader_absent HeaderRecord.ctype .byte hnot
    · exact exec_readHeader_absent HeaderRecord.romsz .byte hnot
    · exact exec_readHeader_absent HeaderRecord.ramsz .byte hnot
    · exact exec_readHeader_absent HeaderRecord.dest .byte hnot
    · exact exec_readHeader_absent HeaderRecord.oldlic .byte hnot
    · exact exec_readHeader_absent HeaderRecord.ver .byte hnot
    · exact exec_readHeader_absent HeaderRecord.hck .byte hnot
    · exact exec_readHeader_absent HeaderRecord.gck .half hnot
    · exact exec_readLoaded_absent Cartridge.typeName .name hnot
    · exact exec_readLoaded_absent Cartridge.licName .name hnot
    · exact exec_readLoaded_absent Cartridge.romKb .nat hnot
    · exact exec_readLoaded_absent Cartridge.ckOk .bit hnot
    · exact exec_readLoaded_absent Cartridge.summary .summary hnot

end Sys2Proof.Proofs
